-- ==== Sys2Proof/Word.lean ====
section
/-! DEFINITION. The word types: the 8-bit byte of A, X, P and the stream, and the 16-bit stream address of pc
(spec/00_scope.md R6, R8, R9). -/

namespace Sys2Proof

/-- An 8-bit value: the width of A, X and P, and of a byte of the instruction stream (R6, R33). -/
abbrev Byte := BitVec 8

/-- A 16-bit stream address: the width of pc (R6, R25, decision D2). -/
abbrev Addr := BitVec 16

end Sys2Proof
end

