-- ==== Sys2Proof/Config.lean ====
section
/-! DEFINITION. The implementation parameters of spec/00_scope.md R6 that are constants of this hardware. The spec
leaves no value open (spec/92_eei_decisions.md, "Open parameters": none), so there is no free value here. -/

namespace Sys2Proof

/-- The longest program a run admits: 0 <= PROG_LEN <= 65535 (R6, R34, decision D3). -/
abbrev Config.maxProgLen : Nat := 65535

/-- The entry point of every run: stream address 0, fixed and read from no vector (R40, R103). -/
abbrev Config.entryPoint : Addr := 0x0000#16

end Sys2Proof
end

