-- ==== Sys2Proof/Syntax.lean ====
section
/-! DEFINITION. The instructions: one constructor per row of spec/opcode_table.json (spec/00_scope.md R2, R12;
spec/30_encoding.md R51). -/

namespace Sys2Proof

/-- The four instructions. The implied ones take their operands from registers, so only LDA carries a field (R53). -/
inductive Instr where
  /-- LDA #imm, Load-Accumulator-Immediate, format IMM: `imm8` is the byte at p + 1, taken unchanged (R49, R53, R79). -/
  | lda (imm8 : Byte)
  /-- TAX, Transfer-Accumulator-To-Index, format IMP (R48, R80). -/
  | tax
  /-- INX, Increment-Index, format IMP (R48, R81). -/
  | inx
  /-- BRK, the assembler's spelling of Halt on this hardware, format IMP (R12, R48, R83; conflict C10). -/
  | brk
  deriving DecidableEq, Repr

end Sys2Proof
end

