-- ==== Sys2Proof/WellFormed.lean ====
section
/-! DEFINITION. The checks on a term of the syntax and on a program before a run. -/

namespace Sys2Proof

/-- Every term is a well-formed instruction: the spec admits every value 0x00..0xFF of `imm8` (R53, R59) and gives
the implied forms no field, and `imm8` has its 8 bits by its type. So this check refuses nothing. -/
def Instr.wf : Instr → Bool
  | .lda _ => true
  | .tax => true
  | .inx => true
  | .brk => true

/-- The one check of the spec on a program: it is admitted exactly when PROG_LEN <= 65535, the empty program
included (R34, decision D3). What its bytes are is not checked: an unrecognized byte faults when it is fetched. -/
def Program.wf (prog : List Byte) : Bool := decide (prog.length ≤ Config.maxProgLen)

end Sys2Proof
end

