-- ==== Sys2Proof/Decode.lean ====
section
/-! DEFINITION. The opcode decoder (spec/40_execution_core.md R63), decoding of whole instructions and of a program
image (spec/30_encoding.md R47-R58), and the encoder written from the same opcode map (R51). -/

namespace Sys2Proof

/-- The decoder's output: one operation tag per recognized opcode, or the byte it does not recognize (R57, R63). -/
inductive Op where
  | load
  | transfer
  | increment
  | halt
  | unrecognized (b : Byte)
  deriving DecidableEq, Repr

/-- The opcode map: 0xA9 (R51). -/
abbrev opcodeLda : Byte := 0xA9#8

/-- The opcode map: 0xAA (R51). -/
abbrev opcodeTax : Byte := 0xAA#8

/-- The opcode map: 0xE8 (R51). -/
abbrev opcodeInx : Byte := 0xE8#8

/-- The opcode map: 0x00 (R51). -/
abbrev opcodeBrk : Byte := 0x00#8

/-- The opcode decoder: a total function of the opcode byte alone, comparing all 8 bits (R50, R56, R63). -/
def decodeOp (b : Byte) : Op :=
  if b = opcodeLda then .load
  else if b = opcodeTax then .transfer
  else if b = opcodeInx then .increment
  else if b = opcodeBrk then .halt
  else .unrecognized b

/-- The number of operand bytes that follow the opcode: one for Load, none for any other byte, recognized or not
(R47, R52, R63). -/
def operandBytes : Op → Nat
  | .load => 1
  | .transfer => 0
  | .increment => 0
  | .halt => 0
  | .unrecognized _ => 0

/-- What decoding a byte sequence gives: an instruction and the bytes after it, or the name of what stops it. -/
inductive Decoded where
  /-- A whole instruction stands first; `rest` follows it. -/
  | instr (i : Instr) (rest : List Byte)
  /-- The first byte is none of the four opcodes (R54). -/
  | unrecognized (b : Byte)
  /-- There is no opcode byte. -/
  | noOpcode
  /-- 0xA9 is the last byte, so its operand byte is missing. -/
  | noOperand
  deriving DecidableEq, Repr

/-- Decoding of a byte sequence, total, by the first byte alone (R47, R52, R57). -/
def decode : List Byte → Decoded
  | [] => .noOpcode
  | b :: bs =>
    match decodeOp b with
    | .load =>
      match bs with
      | [] => .noOperand
      | v :: rest => .instr (.lda v) rest
    | .transfer => .instr .tax bs
    | .increment => .instr .inx bs
    | .halt => .instr .brk bs
    | .unrecognized u => .unrecognized u

/-- The bytes of an instruction, the opcode first and then the operand (formats IMP and IMM, R48, R49, R51). -/
def encode : Instr → List Byte
  | .lda imm8 => [opcodeLda, imm8]
  | .tax => [opcodeTax]
  | .inx => [opcodeInx]
  | .brk => [opcodeBrk]

/-- The length of an instruction: 1 + operand bytes, that is 1 or 2 (R47, R51). -/
def Instr.length : Instr → Nat
  | .lda _ => 2
  | .tax => 1
  | .inx => 1
  | .brk => 1

/-- A program image: the instructions back to back, with no padding (R58). -/
def encodeProgram (is : List Instr) : List Byte := is.flatMap encode

/-- Reading a program image back, instruction by instruction from address 0; none where a byte is not recognized or
the last operand is missing (R58). -/
def decodeProgram : List Byte → Option (List Instr)
  | [] => some []
  | [b] =>
    match decode [b] with
    | .instr i _ => some [i]
    | _ => none
  | b :: v :: rest =>
    match decodeOp b with
    | .load => (decodeProgram rest).map (Instr.lda v :: ·)
    | .transfer => (decodeProgram (v :: rest)).map (Instr.tax :: ·)
    | .increment => (decodeProgram (v :: rest)).map (Instr.inx :: ·)
    | .halt => (decodeProgram (v :: rest)).map (Instr.brk :: ·)
    | .unrecognized _ => none
termination_by structural bs => bs

/-- The two bytes, lowest address first, of an opcode-table word: bit 0 of the word is bit 0 of the first byte, and
every bit from `nbits` on is 0. Two bytes is the longest instruction (R47, R49). -/
def tableBytes (nbits w : Nat) : List Byte :=
  [BitVec.ofNat 8 (w % 2 ^ nbits), BitVec.ofNat 8 (w % 2 ^ nbits / 256)]

/-- The instruction this decoder reads from an opcode-table word. -/
def decodeTableWord (nbits w : Nat) : Option Instr :=
  match decode (tableBytes nbits w) with
  | .instr i _ => some i
  | .unrecognized _ => none
  | .noOpcode => none
  | .noOperand => none

end Sys2Proof
end

