-- ==== Sys2Proof/Machine/State.lean ====
section
/-! DEFINITION. The architectural state of one core instance (spec/10_state.md R13), the reasons a step can stop, and
the state after construction (R31). -/

namespace Sys2Proof.Machine

/-- The instruction stream of a run: a list of (address, byte) pairs in the one canonical form `Memory.wf`
(Machine/Ops.lean). An unlisted address reads as no value: a fetch there raises StreamBounds (R33, R35). -/
abbrev Memory := List Host.Cell

/-- The dispatch loop's state (R28, decision D5). -/
inductive RunState where
  /-- Constructed, no run started. -/
  | idle
  /-- A run is in progress. -/
  | running
  /-- The last run executed Halt. -/
  | halted
  /-- The last run ended with a fault. -/
  | faulted
  deriving DecidableEq, Repr

/-- The two faults of the core (R84). -/
inductive FaultKind where
  /-- A fetch at an address at or beyond the end of the stream (R85). -/
  | streamBounds
  /-- The fetched opcode byte is none of the four (R86). -/
  | unrecognizedOpcode
  deriving DecidableEq, Repr

/-- The fault record (R29, decision D8). -/
structure FaultRecord where
  /-- Which fault it is. -/
  kind : FaultKind
  /-- The address of the failing fetch, or of the unrecognized opcode. -/
  addr : Addr
  /-- The unrecognized opcode, or none. -/
  byte : Option Byte
  deriving DecidableEq, Repr

/-- The architectural state of one core instance (R13), and beside it the program of the current run, which a step
reads and which the spec gives as an argument of the run, not as state (R33; assumption log 1, DESIGN CHOICE). -/
@[ext]
structure State where
  /-- The accumulator (R14). -/
  A : Byte
  /-- The index register (R15). -/
  X : Byte
  /-- The status register: N is bit 7, Z is bit 1, the other bits are reserved (R19-R22). -/
  P : Byte
  /-- The program counter: the address of the next byte to fetch (R25). -/
  pc : Addr
  /-- The dispatch loop's state (R28). -/
  runState : RunState
  /-- The fault record, or none (R29). -/
  fault : Option FaultRecord
  /-- The bytes of the current run's program (R33). -/
  prog : Memory
  deriving DecidableEq, Repr

/-- Why a step could stop with a fault and no next state: there is no such reason. Both faults of the spec are TAKEN:
the step answers a next state with `runState` faulted and the record written, which is all that R87 says `raise`
does. Nobody raises a value of this type; it has none (assumption log 3, DEDUCED; safe). -/
inductive Fault where
  deriving DecidableEq, Repr

/-- Why a call could be refused, with no state changed. -/
inductive Refusal where
  /-- An instruction whose meaning is not written yet. No arm of `exec` answers with it: all four have theirs. Safe. -/
  | notModelled (mnemonic : String)
  /-- Raised by the run entry for a program of more than 65535 bytes: the spec refuses it and no state changes (R34,
  R72, decision D3). No step raises it. Safe. -/
  | programTooLong
  deriving DecidableEq, Repr

/-- The state after construction, the only full reset (R31, R76, R100): all registers zero, no run started, no fault.
The spec gives every field of R13 its value; that no program is held yet is the model's reading (assumption log 1, DESIGN CHOICE). -/
def State.reset : State where
  A := 0x00#8
  X := 0x00#8
  P := 0x00#8
  pc := 0x0000#16
  runState := .idle
  fault := none
  prog := []

end Sys2Proof.Machine
end

