-- ==== Sys2Proof/Machine/Ops.lean ====
section
/-! DEFINITION. The named operations over the stream, the registers and the sequencer state: the read primitive
(spec/20_memory.md R35), the register writes, raising a fault (spec/60_exceptions.md R87), and the state changes of the
run entry (spec/40_execution_core.md R72). The spec gives no write to memory (R36), no handler and no return from a
fault (R87, R91), so there is none here. -/

namespace Sys2Proof.Machine

/-! ### The instruction stream -/

/-- The byte listed at an address, or none. -/
def Memory.read : Memory → Nat → Option Byte
  | [], _ => none
  | (k, b) :: m, a => if k = a then some b else Memory.read m a

/-- The cells of a byte sequence laid out from address `k` on. -/
def Memory.ofBytesFrom : Nat → List Byte → Memory
  | _, [] => []
  | k, b :: bs => (k, b) :: Memory.ofBytesFrom (k + 1) bs

/-- The stream of a program: address i holds `prog[i]`, for 0 <= i < PROG_LEN (R33). -/
def Memory.ofBytes (prog : List Byte) : Memory := Memory.ofBytesFrom 0 prog

/-- PROG_LEN, the number of bytes of the stream (R33). -/
def Memory.progLen (m : Memory) : Nat := m.length

/-- The addresses listed are `k, k + 1, …`, in that order. -/
def Memory.wfFrom : Nat → Memory → Bool
  | _, [] => true
  | k, (a, _) :: m => decide (a = k) && Memory.wfFrom (k + 1) m

/-- The canonical form: the addresses are 0 .. PROG_LEN-1 in rising order, each once (R33), and PROG_LEN is at most
65535 (R34). No listed entry equals what an unlisted address reads as, since that is no value. -/
def Memory.wf (m : Memory) : Bool :=
  Memory.wfFrom 0 m && decide (Memory.progLen m ≤ Config.maxProgLen)

/-- `MemRead(addr, 1)` (R35): none stands for the StreamBounds that the caller raises with `raise`. -/
def memRead (s : State) (a : Addr) : Option Byte :=
  if a.toNat ≥ Memory.progLen s.prog then none else Memory.read s.prog a.toNat

/-! ### Register writes -/

/-- `A <- v`. -/
def State.setA (s : State) (v : Byte) : State := { s with A := v }

/-- `X <- v`. -/
def State.setX (s : State) (v : Byte) : State := { s with X := v }

/-- `P <- v`. -/
def State.setP (s : State) (v : Byte) : State := { s with P := v }

/-- `pc <- a`. -/
def State.setPc (s : State) (a : Addr) : State := { s with pc := a }

/-- `run_state <- r`. -/
def State.setRunState (s : State) (r : RunState) : State := { s with runState := r }

/-- `fault <- f`. -/
def State.setFault (s : State) (f : Option FaultRecord) : State := { s with fault := f }

/-- The program of the run. -/
def State.setProg (s : State) (m : Memory) : State := { s with prog := m }

/-- `pc <- pc + n`, on 16 bits. With PROG_LEN <= 65535 it never wraps (R27). -/
def State.advancePc (s : State) (n : Nat) : State := s.setPc (s.pc + BitVec.ofNat 16 n)

/-! ### Taking a fault -/

/-- `raise F(addr, byte)` (R87): the record is written and the core is Faulted. A, X, P, pc and the stream keep the
value they had at the raise point; there is no handler, no vector and no saved copy of anything. -/
def raise (f : FaultRecord) (s : State) : State := (s.setFault (some f)).setRunState .faulted

/-- `raise StreamBounds(addr)`: the record holds the address of the attempted fetch and no byte (R84). -/
def raiseStreamBounds (a : Addr) (s : State) : State :=
  raise { kind := .streamBounds, addr := a, byte := none } s

/-- `raise UnrecognizedOpcode(p, b)`: the record holds the address of the opcode and the byte (R84). -/
def raiseUnrecognizedOpcode (p : Addr) (b : Byte) (s : State) : State :=
  raise { kind := .unrecognizedOpcode, addr := p, byte := some b } s

/-- The numeric code of a fault (R84, decision D8). -/
def FaultKind.code : FaultKind → Nat
  | .streamBounds => 1
  | .unrecognizedOpcode => 2

/-! ### Starting a run -/

/-- The state changes of the run entry for an admitted program (R72, R102): pc, run_state and fault are reset, the
stream becomes the given program, and A, X and P are not changed. -/
def beginRun (prog : List Byte) (s : State) : State :=
  (((s.setPc Config.entryPoint).setRunState .running).setFault none).setProg (Memory.ofBytes prog)

end Sys2Proof.Machine
end

