-- ==== Sys2Proof/Machine/Alu.lean ====
section
/-! DEFINITION. The ALU stub (spec/40_execution_core.md R64; spec/42_increment.md R82). -/

namespace Sys2Proof.Machine

/-- The two operations of the ALU stub (R64, decision D20). -/
inductive AluOp where
  | pass
  | inc
  deriving DecidableEq, Repr

/-- The ALU stub: PASS gives its operand, INC gives (v + 1) mod 256. It has no status output and never faults (R64,
R82, R89). -/
def alu : AluOp → Byte → Byte
  | .pass, v => v
  | .inc, v => v + 1#8

end Sys2Proof.Machine
end

