-- ==== Sys2Proof/Machine/Flags.lean ====
section
/-! DEFINITION. The flag-update logic (spec/40_execution_core.md R65, R66), the accessors of the two flags (spec/10_state.md R19-R21), and the register writes that update the flags (R67). -/

namespace Sys2Proof.Machine

/-- The mask of the reserved bits 0, 2, 3, 4, 5 and 6 of P (R22). -/
abbrev reservedMask : Byte := 0x7D#8

/-- The flag-update logic: the next P from the current P and the value just written (R65). -/
def flags (P v : Byte) : Byte :=
  (P &&& reservedMask) ||| (if v = 0x00#8 then 0x02#8 else 0x00#8) ||| (v &&& 0x80#8)

/-- Z is P[1] (R20). -/
def zFlag (P : Byte) : Bool := P.getLsbD 1

/-- N is P[7] (R21). -/
def nFlag (P : Byte) : Bool := P.getLsbD 7

/-- `A <- v` and then `P <- flags(P, A)` (R62, R68). -/
def writeA (v : Byte) (s : State) : State := (s.setA v).setP (flags s.P v)

/-- `X <- v` and then `P <- flags(P, X)` (R62, R68). -/
def writeX (v : Byte) (s : State) : State := (s.setX v).setP (flags s.P v)

end Sys2Proof.Machine
end

