-- ==== Sys2Proof/Machine/Operands.lean ====
section
/-! DEFINITION. The operand forms: immediate, one byte after the opcode, and implied, none (spec/30_encoding.md
R47-R53), and the fetch of an instruction's bytes (spec/40_execution_core.md R68). -/

namespace Sys2Proof.Machine

/-- The operand bytes that the core fetches after the opcode byte `b` at pc: the byte at p + 1 for the immediate form,
if the stream holds it, and for any other opcode byte, recognized or not, nothing is fetched (R52, R53). -/
def operandFetch (s : State) (b : Byte) : List Byte :=
  match operandBytes (decodeOp b) with
  | 0 => []
  | _ + 1 => (memRead s (s.pc + 1#16)).toList

/-- The bytes that the core fetches for the instruction at pc, in rising address order, ending early where a fetch
finds no byte (R37, R52, R68). -/
def instrFetch (s : State) : List Byte :=
  match memRead s s.pc with
  | none => []
  | some b => b :: operandFetch s b

end Sys2Proof.Machine
end

