-- ==== Sys2Proof/Machine/Halt.lean ====
section
/-! DEFINITION. The meaning of BRK, which is Halt on this hardware (spec/43_halt.md R83). -/

namespace Sys2Proof.Machine

/-- BRK, Halt (R83): pc <- p + 1, run_state <- Halted; A, X and P are unchanged. -/
def execBrk (s : State) : Host.Outcome State Fault Refusal :=
  .next ((s.advancePc 1).setRunState .halted)

end Sys2Proof.Machine
end

