-- ==== Sys2Proof/Machine/Increment.lean ====
section
/-! DEFINITION. The meaning of INX (spec/42_increment.md R81). -/

namespace Sys2Proof.Machine

/-- INX (R81): X <- alu(INC, X) from the old X, P <- flags(P, X) from the new X, pc <- p + 1. -/
def execInx (s : State) : Host.Outcome State Fault Refusal :=
  .next ((writeX (alu .inc s.X) s).advancePc 1)

end Sys2Proof.Machine
end

