-- ==== Sys2Proof/Machine/LoadTransfer.lean ====
section
/-! DEFINITION. The meanings of LDA #imm and TAX (spec/41_load_transfer.md R79, R80). A meaning starts from the state
at the start of the step, with pc = p, and advances pc by the instruction's length (R26; assumption log 7, DEDUCED). -/

namespace Sys2Proof.Machine

/-- LDA #imm (R79): A <- alu(PASS, imm8), P <- flags(P, A), pc <- p + 2. -/
def execLda (imm8 : Byte) (s : State) : Host.Outcome State Fault Refusal :=
  .next ((writeA (alu .pass imm8) s).advancePc 2)

/-- TAX (R80): X <- alu(PASS, A), P <- flags(P, X), pc <- p + 1. -/
def execTax (s : State) : Host.Outcome State Fault Refusal :=
  .next ((writeX (alu .pass s.A) s).advancePc 1)

end Sys2Proof.Machine
end

