-- ==== Sys2Proof/Machine/Dispatch.lean ====
section
/-! DEFINITION. The dispatch from an instruction to its meaning (spec/40_execution_core.md R62, R68). -/

namespace Sys2Proof.Machine

/-- The effect of a decoded instruction on the state at the start of the step, one meaning per instruction. -/
def exec (i : Instr) (s : State) : Host.Outcome State Fault Refusal :=
  match i with
  | .lda imm8 => Sys2Proof.Machine.execLda imm8 s
  | .tax => Sys2Proof.Machine.execTax s
  | .inx => Sys2Proof.Machine.execInx s
  | .brk => Sys2Proof.Machine.execBrk s

end Sys2Proof.Machine
end

