-- ==== Sys2Proof/Machine/Sequencer.lean ====
section
/-! DEFINITION. One iteration of the dispatch loop (spec/40_execution_core.md R68-R70): fetch, decode, and then either
the instruction's meaning or the fault of the fetch or of the decode; and what a core does that is not Running. -/

namespace Sys2Proof.Machine

/-- The step of a running core (R68), its checks in the order of R90: the bounds check of the opcode fetch, the
decode, and for 0xA9 the bounds check of the operand fetch. pc at each raise point is as the table of R87 says (decision D9 of the
spec; assumption log 5, UNVERIFIED). -/
def runningStep (s : State) : Host.Outcome State Fault Refusal :=
  match decode (instrFetch s) with
  | .instr i _ => exec i s
  | .noOpcode => .next (raiseStreamBounds s.pc s)
  | .unrecognized b => .next (raiseUnrecognizedOpcode s.pc b (s.advancePc 1))
  | .noOperand => .next (raiseStreamBounds (s.pc + 1#16) (s.advancePc 1))

/-- The step in any state. A core that is Running takes the step of R68. A core that is Idle, Halted or Faulted has no
step in the spec, "It fetches nothing and changes nothing" (R70), and here the step of such a core answers the state
unchanged (assumption log 2, DESIGN CHOICE). -/
def coreStep (s : State) : Host.Outcome State Fault Refusal :=
  match s.runState with
  | .running => runningStep s
  | .idle => .next s
  | .halted => .next s
  | .faulted => .next s

end Sys2Proof.Machine
end

