-- ==== Sys2Proof/Machine/Step.lean ====
section
/-! DEFINITION. The step of the machine: one whole instruction (spec/00_scope.md R5, spec/40_execution_core.md
R68-R70). -/

namespace Sys2Proof.Machine

/-- One step executes one whole instruction of a running core (R5, R68), and nothing on any other core (R70). -/
def step (s : State) : Host.Outcome State Fault Refusal := coreStep s

/-- The state whose very next step fetches and runs the instruction of an opcode-table word: a run of the two-byte
program that the word gives has been entered, so pc is 0, the core is Running, and A, X and P are not changed. A
program comes to run on this hardware only by the run entry (R72, R78; assumption log 4, DESIGN CHOICE). -/
def State.withFetchWord (s : State) (nbits w : Nat) : State := beginRun (tableBytes nbits w) s

end Sys2Proof.Machine
end

