-- ==== Sys2Proof/Machine/Datapath.lean ====
section
/-! DEFINITION. The core as its five sub-blocks (spec/40_execution_core.md R61): the control word that each decoded
operation gives the datapath (the table of R62), and the step as the sequencer's own lines (R68) over that table. It
is a second account of the step, beside the meanings of Machine/Dispatch.lean; that the two agree is an obligation. -/

namespace Sys2Proof.Machine

/-- Where the ALU takes its operand from (R62, column "ALU input"). -/
inductive AluInput where
  | imm8
  | regA
  | regX
  deriving DecidableEq, Repr

/-- The register that the ALU result is written to (R62, column "destination"). -/
inductive Dest where
  | regA
  | regX
  deriving DecidableEq, Repr

/-- One row of the table of R62. -/
structure Control where
  /-- Whether one operand byte is fetched. -/
  operandFetch : Bool
  /-- The ALU operation and its input; none for the rows that do not use the ALU. -/
  alu : Option (AluOp × AluInput)
  /-- The destination register. -/
  dest : Option Dest
  /-- Whether the flag-update logic writes P. -/
  flagWrite : Bool
  /-- run_state after the step. -/
  nextRunState : RunState
  deriving DecidableEq, Repr

/-- The table of R62. -/
def controlOf : Op → Control
  | .load => ⟨true, some (.pass, .imm8), some .regA, true, .running⟩
  | .transfer => ⟨false, some (.pass, .regA), some .regX, true, .running⟩
  | .increment => ⟨false, some (.inc, .regX), some .regX, true, .running⟩
  | .halt => ⟨false, none, none, false, .halted⟩
  | .unrecognized _ => ⟨false, none, none, false, .faulted⟩

/-- The ALU's operand, read from the state at the start of the step (R108). -/
def aluOperand (imm8 : Byte) (s : State) : AluInput → Byte
  | .imm8 => imm8
  | .regA => s.A
  | .regX => s.X

/-- The write of the ALU result to its destination. -/
def writeDest (d : Option Dest) (v : Byte) (s : State) : State :=
  match d with
  | none => s
  | some .regA => s.setA v
  | some .regX => s.setX v

/-- The datapath under a control word: the ALU result goes to the destination and to the flag-update logic, and
run_state becomes the word's next one (R62). -/
def drive (c : Control) (imm8 : Byte) (s : State) : State :=
  (match c.alu with
   | none => s
   | some (op, input) =>
     let v := alu op (aluOperand imm8 s input)
     let t := writeDest c.dest v s
     if c.flagWrite then t.setP (flags t.P v) else t).setRunState c.nextRunState

/-- The step of a running core as the sequencer's lines (R68): pc moves after each fetch, a raise ends the step, and
the writes before it stand. -/
def sequencerStep (s : State) : State :=
  let p := s.pc
  match memRead s s.pc with
  | none => raiseStreamBounds s.pc s
  | some b =>
    let s := s.setPc (s.pc + 1#16)
    match decodeOp b with
    | .unrecognized u => raiseUnrecognizedOpcode p u s
    | op =>
      let c := controlOf op
      if c.operandFetch then
        match memRead s s.pc with
        | none => raiseStreamBounds s.pc s
        | some v => drive c v (s.setPc (s.pc + 1#16))
      else drive c 0x00#8 s

end Sys2Proof.Machine
end

