-- ==== Sys2Proof/Machine/Run.lean ====
section
/-! DEFINITION. The external interface of a core (spec/40_execution_core.md R72-R78): construction, the run entry and
its loop, the outcome of a run, and the read-only observation. -/

namespace Sys2Proof.Machine

/-- Construction: a new core in the reset state; it starts no run, fetches nothing and takes no program (R76). -/
def construct : State := State.reset

/-- The run entry up to its loop (R72): a program of more than 65535 bytes is refused and no state changes; any other
resets pc, run_state and fault only. It may be called in any run_state (R71, R78). -/
def runEntry (prog : List Byte) (s : State) : Host.Outcome State Fault Refusal :=
  if Program.wf prog then .next (beginRun prog s) else .refused .programTooLong

/-- `while run_state == Running: step()`, for at most `n` steps (R72). -/
def runLoop : Nat → State → Host.Outcome State Fault Refusal
  | 0, s => .next s
  | n + 1, s =>
    match s.runState with
    | .running =>
      match step s with
      | .next t => runLoop n t
      | .fault f => .fault f
      | .refused r => .refused r
    | .idle => .next s
    | .halted => .next s
    | .faulted => .next s

/-- A whole run, one synchronous call (R72, R75). The loop has no step limit in the spec; PROG_LEN + 1 steps are all
that it can take (R74; assumption log 9, DEDUCED). -/
def run (prog : List Byte) (s : State) : Host.Outcome State Fault Refusal :=
  match runEntry prog s with
  | .next t => runLoop (prog.length + 1) t
  | .fault f => .fault f
  | .refused r => .refused r

/-- How a run ends: by executing Halt, or with a fault (R73). -/
inductive RunOutcome where
  /-- `Ok(Halted)`. -/
  | ok
  /-- `Err(fault)`. -/
  | err (f : FaultRecord)
  deriving DecidableEq, Repr

/-- The last run's outcome: none before the first run, kept until the next run starts (R77, decision D22). It is read
off run_state and the fault record, which hold it (assumption log 10, DEDUCED). -/
def State.lastOutcome (s : State) : Option RunOutcome :=
  match s.runState with
  | .idle => none
  | .running => none
  | .halted => some .ok
  | .faulted => s.fault.map .err

/-- All that an observer can see of a core (R77). -/
structure Observation where
  /-- The accessor of A. -/
  A : Byte
  /-- The accessor of X. -/
  X : Byte
  /-- The accessor of P, the raw byte as stored, reserved bits included (R22, decision D21). -/
  P : Byte
  /-- The accessor of Z. -/
  Z : Bool
  /-- The accessor of N. -/
  N : Bool
  /-- The accessor of pc (decision D19). -/
  pc : Addr
  /-- The accessor of the last run's outcome. -/
  lastOutcome : Option RunOutcome
  deriving DecidableEq, Repr

/-- The read-only observation interface; a read changes no state, so it answers no state (R77). -/
def State.observe (s : State) : Observation where
  A := s.A
  X := s.X
  P := s.P
  Z := zFlag s.P
  N := nFlag s.P
  pc := s.pc
  lastOutcome := s.lastOutcome

end Sys2Proof.Machine
end

