-- ==== Sys2Proof/Machine/Platform.lean ====
section
/-! DEFINITION. Any number of core instances, each with its own state (spec/10_state.md R32, spec/60_exceptions.md
R97). What a step or a run of one instance does is what Machine/Step.lean and Machine/Run.lean say of one core. -/

namespace Sys2Proof.Machine

/-- The core instances, in the order of their construction. The core has no instance identifier (R97): the position
is the caller's own name for it (assumption log 12, DESIGN CHOICE). -/
abbrev Platform := List State

/-- Construction of one more instance (R76). -/
def Platform.construct (ps : Platform) : Platform := ps ++ [Sys2Proof.Machine.construct]

/-- What an outcome leaves of an instance: the next state, or the old one where nothing happened. -/
def settle (s : State) : Host.Outcome State Fault Refusal → State
  | .next t => t
  | .fault _ => s
  | .refused _ => s

/-- One step of the instance at position i, while the others stand. -/
def Platform.stepAt (i : Nat) (ps : Platform) : Platform :=
  ps.modify i (fun s => settle s (step s))

/-- A call of the run entry of the instance at position i; its steps are then taken by `Platform.stepAt`. -/
def Platform.runEntryAt (i : Nat) (prog : List Byte) (ps : Platform) : Platform :=
  ps.modify i (fun s => settle s (runEntry prog s))

end Sys2Proof.Machine
end

