-- ==== Sys2Proof/Safety.lean ====
section
/-! DEFINITION. The terms that claims use: what flags that follow a value are, the invariant that every step keeps,
the states that a core can reach, and what stands beside a state in a claim about its past. -/

namespace Sys2Proof.Machine

/-- Z and N of `P` follow the value `v`: Z is (v == 0) and N is v[7] (R20, R21, R65). -/
def FlagsFollow (P v : Byte) : Prop := zFlag P = decide (v = 0x00#8) ∧ nFlag P = v.getLsbD 7

/-- Z and N of `P` follow the last value written: both are 0 where none has been (R23). -/
def FlagsFollowLast (P : Byte) : Option Byte → Prop
  | none => zFlag P = false ∧ nFlag P = false
  | some v => FlagsFollow P v

/-- `Q` has the reserved bits of `P`: every bit but 1 and 7 (R22). -/
def ReservedKept (P Q : Byte) : Prop := ∀ i < 8, i ≠ 1 → i ≠ 7 → Q.getLsbD i = P.getLsbD i

/-- The bytes of `i` stand in the stream from pc on (R49, R58). -/
def InstrAtPc (s : State) (i : Instr) : Prop :=
  ∀ k < (encode i).length, memRead s (s.pc + BitVec.ofNat 16 k) = (encode i)[k]?

/-- A byte that is none of the four opcodes (R54). -/
def Unrecognized (b : Byte) : Prop := b ≠ 0xA9#8 ∧ b ≠ 0xAA#8 ∧ b ≠ 0xE8#8 ∧ b ≠ 0x00#8

/-- The bounds check of the opcode fetch, common to every instruction: beyond the end of the stream the step raises
StreamBounds at pc (R68, R85). -/
def OpcodeFetchIsBounded (s : State) : Prop :=
  memRead s s.pc = none → ∃ t, step s = .next t ∧ t.runState = .faulted ∧
    t.fault = some { kind := .streamBounds, addr := s.pc, byte := none } ∧
    t.A = s.A ∧ t.X = s.X ∧ t.P = s.P ∧ t.prog = s.prog

/-- The record tells why the run ended in this state: pc stands at the end of the stream, where the fetch failed, or
just past the unrecognized opcode (R84, R87). The place of pc after a fault is the spec's own choice (decision D9,
assumption log 5). -/
def FaultExplained (s : State) (f : FaultRecord) : Prop :=
  match f.kind with
  | .streamBounds => f.byte = none ∧ f.addr = s.pc ∧ s.pc.toNat = Memory.progLen s.prog
  | .unrecognizedOpcode =>
    ∃ b, f.byte = some b ∧ Unrecognized b ∧ memRead s f.addr = some b ∧ s.pc.toNat = f.addr.toNat + 1

/-- The invariant of a core: its stream is in canonical form, pc is in the stream or at its end (R27), and run_state,
the fault record and pc agree: no record but in Faulted (R29), a record that explains the end in Faulted, and pc just
past a Halt opcode of the stream in Halted (R83). It says nothing of A, X and P (R106, decision D6). -/
def State.Consistent (s : State) : Prop :=
  Memory.wf s.prog = true ∧ s.pc.toNat ≤ Memory.progLen s.prog ∧
  match s.runState with
  | .idle => s.fault = none ∧ s.pc = 0x0000#16 ∧ s.prog = []
  | .running => s.fault = none
  | .halted => s.fault = none ∧ ∃ p : Addr, memRead s p = some 0x00#8 ∧ s.pc.toNat = p.toNat + 1
  | .faulted => ∃ f, s.fault = some f ∧ FaultExplained s f

/-- The states that a core can reach: from construction, by calls of the run entry and by steps (R18, R71). -/
inductive Reachable : State → Prop
  | construct : Reachable construct
  | runEntry {s t : State} (prog : List Byte) : Reachable s → runEntry prog s = .next t → Reachable t
  | step {s t : State} : Reachable s → step s = .next t → Reachable t

/-- The value that an instruction writes to its destination register if it is flag-affecting, and none for Halt (R67),
from the state at the start of the step. -/
def flagValue (i : Instr) (s : State) : Option Byte :=
  match i with
  | .lda imm8 => some imm8
  | .tax => some s.A
  | .inx => some (s.X + 1#8)
  | .brk => none

/-- `History s v`: a core can reach `s`, and `v` is the last value that a flag-affecting instruction has written since
construction, or none if no such instruction has run (R23). -/
inductive History : State → Option Byte → Prop
  | construct : History construct none
  | runEntry {s t : State} {v : Option Byte} (prog : List Byte) :
      History s v → runEntry prog s = .next t → History t v
  | executed {s t : State} {v : Option Byte} {i : Instr} :
      History s v → s.runState = .running → InstrAtPc s i → step s = .next t →
      History t ((flagValue i s).or v)
  | faulted {s t : State} {v : Option Byte} :
      History s v → s.runState = .running → step s = .next t → t.runState = .faulted → History t v
  | notRunning {s t : State} {v : Option Byte} :
      History s v → s.runState ≠ .running → step s = .next t → History t v

end Sys2Proof.Machine
end

