-- ==== Sys2Proof/Certificates/Slice0/Obligations.lean ====
section
/-! DEFINITION. The statements for the provers, one definition per obligation of OBLIGATIONS.json. -/

open Sys2Proof Sys2Proof.Machine

/-! ### Construction and the run entry -/

/-- R31: the value of every field of R13 after construction. That run_state is Idle and fault is none are the spec's
own choices (decisions D5, D8, assumption log 6). -/
def Obligations.ConstructionGivesResetState : Prop :=
  construct.A = 0x00#8 ∧ construct.X = 0x00#8 ∧ construct.P = 0x00#8 ∧ construct.pc = 0x0000#16 ∧
  construct.runState = .idle ∧ construct.fault = none

/-- R102, R103: the run entry for an admitted program resets pc to address 0, run_state and fault, from any state, and
keeps A, X and P. -/
def Obligations.RunEntryResetsOnlyPcRunStateAndFault : Prop :=
  ∀ (prog : List Byte) (s : State), prog.length ≤ 65535 →
    ∃ t, runEntry prog s = .next t ∧ t.pc = 0x0000#16 ∧ t.runState = .running ∧ t.fault = none ∧
      t.A = s.A ∧ t.X = s.X ∧ t.P = s.P

/-- R33: in the run that is entered, the addresses are 0 .. PROG_LEN-1, address i holds prog[i], and every read beyond
them gives no byte. Derived, as the rule says more than this about address spaces. -/
def Obligations.StreamHoldsTheProgramOfTheRun : Prop :=
  ∀ (prog : List Byte) (s t : State), runEntry prog s = .next t →
    Memory.progLen t.prog = prog.length ∧ ∀ a : Addr, memRead t a = prog[a.toNat]?

/-- R34: a program longer than 65535 bytes is refused, with no next state; any other is admitted; the empty one is
admitted and its run ends with StreamBounds at address 0. The limit is the spec's own choice (decision D3, assumption
log 6). -/
def Obligations.ProgramLengthLimit : Prop :=
  (∀ (prog : List Byte) (s : State), 65535 < prog.length →
    runEntry prog s = .refused .programTooLong ∧ run prog s = .refused .programTooLong) ∧
  (∀ (prog : List Byte) (s : State), prog.length ≤ 65535 → ∃ t, runEntry prog s = .next t) ∧
  (∀ s : State, ∃ t, run [] s = .next t ∧ t.runState = .faulted ∧
    t.fault = some { kind := .streamBounds, addr := 0x0000#16, byte := none })

/-- R35, on a stream in canonical form: a read gives no byte exactly at the addresses at or beyond PROG_LEN. Derived,
since the canonical form is the model's. -/
def Obligations.ReadFailsExactlyBeyondTheStream : Prop :=
  ∀ (s : State) (a : Addr), Memory.wf s.prog = true →
    (memRead s a = none ↔ Memory.progLen s.prog ≤ a.toNat)

/-! ### Encoding -/

/-- R57, R63: the decoder on every byte. -/
def Obligations.DecoderFollowsTheOpcodeMap : Prop :=
  decodeOp 0xA9#8 = .load ∧ decodeOp 0xAA#8 = .transfer ∧ decodeOp 0xE8#8 = .increment ∧ decodeOp 0x00#8 = .halt ∧
  ∀ b : Byte, b ≠ 0xA9#8 → b ≠ 0xAA#8 → b ≠ 0xE8#8 → b ≠ 0x00#8 → decodeOp b = .unrecognized b

/-- Words written out from R51: one per instruction, and an unrecognized byte. -/
def Obligations.WrittenOutWordsDecode : Prop :=
  decode [0b10101001#8, 0x05#8] = .instr (.lda 0x05#8) [] ∧ decode [0b10101010#8] = .instr .tax [] ∧
  decode [0b11101000#8] = .instr .inx [] ∧ decode [0b00000000#8] = .instr .brk [] ∧
  decodeTableWord 16 0x05A9 = some (.lda 0x05#8) ∧ decode [0b01101001#8] = .unrecognized 0x69#8

/-- Decode and encode agree, in both directions: a byte sequence begins with the instruction that decoding gives, with
its operand at any value, and with nothing else. -/
def Obligations.DecodeInvertsEncode : Prop :=
  ∀ (bs : List Byte) (i : Instr) (rest : List Byte), decode bs = .instr i rest ↔ bs = encode i ++ rest

/-- R58: a program image is its instructions back to back: reading the image of any list of instructions gives the
list back, and an image that reads as a list of instructions is exactly that list's image. -/
def Obligations.ProgramImageRoundTrip : Prop :=
  (∀ is : List Instr, decodeProgram (encodeProgram is) = some is) ∧
  (∀ (bs : List Byte) (is : List Instr), decodeProgram bs = some is → encodeProgram is = bs)

/-! ### The ALU stub and the flag-update logic -/

/-- R64: PASS gives its operand and INC gives (v + 1) mod 256. -/
def Obligations.AluPassesAndIncrements : Prop :=
  ∀ v : Byte, alu .pass v = v ∧ (alu .inc v).toNat = (v.toNat + 1) % 256

/-- R65: the next P has Z = (v == 0), N = v[7], and P[0], P[2..6] unchanged. -/
def Obligations.FlagLogicSetsZAndNKeepsTheRest : Prop :=
  ∀ P v : Byte,
    flags P v = ((P &&& 0x7D#8) ||| (if v = 0x00#8 then 0x02#8 else 0x00#8) ||| (v &&& 0x80#8)) ∧
    FlagsFollow (flags P v) v ∧ ReservedKept P (flags P v)

/-- R66: the next Z and N depend only on v, whatever P was, and the reserved bits are copied: a second update discards
what the first one left. -/
def Obligations.FlagLogicReplacesOldFlags : Prop :=
  ∀ P Q v w : Byte, zFlag (flags P v) = zFlag (flags Q v) ∧ nFlag (flags P v) = nFlag (flags Q v) ∧
    ReservedKept P (flags P v) ∧ flags (flags P w) v = flags P v

/-! ### The instructions: each completes, with its result and its frame -/

/-- R79, R26: LDA #imm completes in every state: A is the operand, Z and N follow it, pc moves by 2, and X, the
reserved bits of P, run_state, the fault record and every byte of the stream are unchanged. -/
def Obligations.LdaCompletes : Prop :=
  ∀ (v : Byte) (s : State), ∃ t, exec (.lda v) s = .next t ∧
    t.A = v ∧ FlagsFollow t.P v ∧ ReservedKept s.P t.P ∧ t.pc = s.pc + 2#16 ∧
    t.X = s.X ∧ t.runState = s.runState ∧ t.fault = s.fault ∧ ∀ a, memRead t a = memRead s a

/-- R80, R26: TAX completes in every state: X is A, Z and N follow it, pc moves by 1, and A, the reserved bits of P,
run_state, the fault record and every byte of the stream are unchanged. -/
def Obligations.TaxCompletes : Prop :=
  ∀ s : State, ∃ t, exec .tax s = .next t ∧
    t.X = s.A ∧ FlagsFollow t.P s.A ∧ ReservedKept s.P t.P ∧ t.pc = s.pc + 1#16 ∧
    t.A = s.A ∧ t.runState = s.runState ∧ t.fault = s.fault ∧ ∀ a, memRead t a = memRead s a

/-- R81, R82, R26: INX completes in every state, the wrap from 0xFF included: X is (X + 1) mod 256, Z and N follow the
new X, pc moves by 1, and A, the reserved bits of P, run_state, the fault record and every byte of the stream are
unchanged. -/
def Obligations.InxCompletes : Prop :=
  ∀ s : State, ∃ t, exec .inx s = .next t ∧
    t.X.toNat = (s.X.toNat + 1) % 256 ∧ FlagsFollow t.P t.X ∧ ReservedKept s.P t.P ∧ t.pc = s.pc + 1#16 ∧
    t.A = s.A ∧ t.runState = s.runState ∧ t.fault = s.fault ∧ ∀ a, memRead t a = memRead s a

/-- R83, R26: BRK completes in every state: run_state is Halted, pc moves by 1, and A, X, all of P, the fault record
and every byte of the stream are unchanged. -/
def Obligations.BrkCompletes : Prop :=
  ∀ s : State, ∃ t, exec .brk s = .next t ∧
    t.runState = .halted ∧ t.pc = s.pc + 1#16 ∧
    t.A = s.A ∧ t.X = s.X ∧ t.P = s.P ∧ t.fault = s.fault ∧ ∀ a, memRead t a = memRead s a

/-! ### The step -/

/-- When the bytes of an instruction stand at pc, decoding gives it and the step of the running core is exec of it: pc
is moved by the meaning, and the step adds nothing around it. Every instruction is well-formed. -/
def Obligations.StepRunsTheDecodedInstruction : Prop :=
  ∀ (s : State) (i : Instr), s.runState = .running → InstrAtPc s i →
    decode (instrFetch s) = .instr i [] ∧ step s = exec i s

/-- The host's way to an instruction: the step of a state with an opcode-table word placed by `State.withFetchWord` is
exec of the instruction that the decoder reads from the word, with pc at 0 and A, X and P as they were. That a program
is placed by a call of the run entry is the model's choice (assumption log 4). -/
def Obligations.FetchWordIsWhatStepRuns : Prop :=
  ∀ (s : State) (nbits w : Nat) (i : Instr), decodeTableWord nbits w = some i →
    step (s.withFetchWord nbits w) = exec i (s.withFetchWord nbits w) ∧
    (s.withFetchWord nbits w).A = s.A ∧ (s.withFetchWord nbits w).X = s.X ∧ (s.withFetchWord nbits w).P = s.P ∧
    (s.withFetchWord nbits w).pc = 0x0000#16

/-- R79 as one step of a running core, with the bounds check of the opcode fetch: where the opcode byte is 0xA9 and
the operand is in the stream, A, P and pc are as the rule says and X is untouched; where the operand is missing,
StreamBounds at p + 1, and A and P are unchanged. That pc is then p + 1 is the spec's own choice (decision D9,
assumption log 5). -/
def Obligations.LdaStep : Prop :=
  ∀ s : State, s.runState = .running →
    OpcodeFetchIsBounded s ∧
    (memRead s s.pc = some 0xA9#8 → ∀ v, memRead s (s.pc + 1#16) = some v → ∃ t, step s = .next t ∧
      t.A = v ∧ FlagsFollow t.P v ∧ ReservedKept s.P t.P ∧ t.pc = s.pc + 2#16 ∧
      t.X = s.X ∧ t.runState = .running ∧ t.fault = s.fault ∧ t.prog = s.prog) ∧
    (memRead s s.pc = some 0xA9#8 → memRead s (s.pc + 1#16) = none → ∃ t, step s = .next t ∧
      t.fault = some { kind := .streamBounds, addr := s.pc + 1#16, byte := none } ∧ t.runState = .faulted ∧
      t.A = s.A ∧ t.X = s.X ∧ t.P = s.P ∧ t.pc = s.pc + 1#16 ∧ t.prog = s.prog)

/-- R80 as one step of a running core, with the bounds check of the opcode fetch: where the opcode byte is 0xAA, TAX
raises nothing; as the last byte of the stream it still completes, and then it is the next step that faults, at p + 1.
-/
def Obligations.TaxStep : Prop :=
  ∀ s : State, s.runState = .running →
    OpcodeFetchIsBounded s ∧
    (memRead s s.pc = some 0xAA#8 → ∃ t, step s = .next t ∧
      t.X = s.A ∧ FlagsFollow t.P s.A ∧ ReservedKept s.P t.P ∧ t.pc = s.pc + 1#16 ∧
      t.A = s.A ∧ t.runState = .running ∧ t.fault = s.fault ∧ t.prog = s.prog ∧
      (memRead s (s.pc + 1#16) = none → ∃ u, step t = .next u ∧ u.runState = .faulted ∧
        u.fault = some { kind := .streamBounds, addr := s.pc + 1#16, byte := none }))

/-- R81 as one step of a running core, with the bounds check of the opcode fetch: where the opcode byte is 0xE8, the
wrap from 0xFF gives 0x00 and no fault, any other value goes up by one, the flags follow the new X, and as the last
byte of the stream INX still completes. -/
def Obligations.InxStep : Prop :=
  ∀ s : State, s.runState = .running →
    OpcodeFetchIsBounded s ∧
    (memRead s s.pc = some 0xE8#8 → ∃ t, step s = .next t ∧
      (s.X = 0xFF#8 → t.X = 0x00#8 ∧ zFlag t.P = true ∧ nFlag t.P = false) ∧
      (s.X ≠ 0xFF#8 → t.X.toNat = s.X.toNat + 1) ∧
      FlagsFollow t.P t.X ∧ ReservedKept s.P t.P ∧ t.pc = s.pc + 1#16 ∧
      t.A = s.A ∧ t.runState = .running ∧ t.fault = s.fault ∧ t.prog = s.prog ∧
      (memRead s (s.pc + 1#16) = none → ∃ u, step t = .next u ∧ u.runState = .faulted ∧
        u.fault = some { kind := .streamBounds, addr := s.pc + 1#16, byte := none }))

/-- R83 as one step of a running core, with the bounds check of the opcode fetch: where the opcode byte is 0x00, the
run ends in Halted with pc = p + 1 and A, X and P unchanged, whatever stands after the opcode and if nothing does, and
the loop takes no further step. -/
def Obligations.BrkStep : Prop :=
  ∀ s : State, s.runState = .running →
    OpcodeFetchIsBounded s ∧
    (memRead s s.pc = some 0x00#8 → ∃ t, step s = .next t ∧
      t.runState = .halted ∧ t.pc = s.pc + 1#16 ∧ t.A = s.A ∧ t.X = s.X ∧ t.P = s.P ∧
      t.fault = s.fault ∧ t.prog = s.prog ∧ ∀ n, runLoop n t = .next t)

/-- R26: each instruction moves pc by its length, LDA by 2 and the others by 1, and the run entry sets pc to 0. -/
def Obligations.PcMovesByInstructionLength : Prop :=
  (∀ (s t : State) (i : Instr), s.runState = .running → InstrAtPc s i → step s = .next t →
    t.pc = s.pc + BitVec.ofNat 16 (encode i).length) ∧
  (∀ v : Byte, (encode (.lda v)).length = 2) ∧ (encode .tax).length = 1 ∧ (encode .inx).length = 1 ∧
  (encode .brk).length = 1 ∧
  (∀ (prog : List Byte) (s t : State), runEntry prog s = .next t → t.pc = 0x0000#16)

/-- R27, which the spec marks as derived: from a state that meets the invariant, pc never wraps: as a number it moves
by at most the two bytes of the longest instruction, and it stays at most PROG_LEN, which is at most 65535. For a step
that faults this speaks of pc after a fault, the spec's own choice (decision D9, assumption log 5). -/
def Obligations.PcNeverWraps : Prop :=
  ∀ s t : State, s.Consistent → step s = .next t →
    s.pc.toNat ≤ t.pc.toNat ∧ t.pc.toNat ≤ s.pc.toNat + 2 ∧ t.pc.toNat ≤ Memory.progLen t.prog ∧
    Memory.progLen t.prog ≤ 65535

/-- R69: every step of a running core answers a next state, in exactly one of Continue, Halt and Fault, and the fault
record is written in the last one alone. -/
def Obligations.RunningStepHasThreeOutcomes : Prop :=
  ∀ s : State, s.runState = .running → ∃ t, step s = .next t ∧
    ((t.runState = .running ∧ t.fault = s.fault) ∨ (t.runState = .halted ∧ t.fault = s.fault) ∨
     (t.runState = .faulted ∧ ∃ f, t.fault = some f))

/-- R70, as the model has it: a step of a core that is Idle, Halted or Faulted changes nothing. That such a step
answers the state at all, where the spec says there is none, is the model's choice (assumption log 2). -/
def Obligations.CoreThatIsNotRunningKeepsItsState : Prop :=
  ∀ s : State, s.runState ≠ .running → step s = .next s

/-- R54, R86: an unrecognized byte at pc ends the run, with the opcode's own address and the byte in the record, and
A, X, P and the stream unchanged. That the policy is a fatal fault, and what the record holds, are the spec's own
choices (decisions D7, D8, assumption log 6). -/
def Obligations.UnrecognizedOpcodeEndsTheRun : Prop :=
  ∀ (s : State) (b : Byte), s.runState = .running → memRead s s.pc = some b → Unrecognized b →
    ∃ t, step s = .next t ∧ t.runState = .faulted ∧
      t.fault = some { kind := .unrecognizedOpcode, addr := s.pc, byte := some b } ∧
      t.A = s.A ∧ t.X = s.X ∧ t.P = s.P ∧ t.prog = s.prog

/-- R84, R90: the two faults, their codes, their causes in the order in which a step checks them, and their records; a
step without one of the causes raises nothing. The byte after an unrecognized opcode plays no part. The codes and the
content of the record are the spec's own choice (decision D8, assumption log 6). -/
def Obligations.FaultCausesInCheckingOrder : Prop :=
  FaultKind.code .streamBounds = 1 ∧ FaultKind.code .unrecognizedOpcode = 2 ∧
  ∀ s t : State, s.runState = .running → step s = .next t →
    match memRead s s.pc with
    | none => t.runState = .faulted ∧ t.fault = some { kind := .streamBounds, addr := s.pc, byte := none }
    | some b =>
      (Unrecognized b → t.runState = .faulted ∧
        t.fault = some { kind := .unrecognizedOpcode, addr := s.pc, byte := some b }) ∧
      (b = 0xA9#8 → memRead s (s.pc + 1#16) = none → t.runState = .faulted ∧
        t.fault = some { kind := .streamBounds, addr := s.pc + 1#16, byte := none }) ∧
      (b = 0xA9#8 → memRead s (s.pc + 1#16) ≠ none → t.runState = .running ∧ t.fault = s.fault) ∧
      (b = 0xAA#8 ∨ b = 0xE8#8 → t.runState = .running ∧ t.fault = s.fault) ∧
      (b = 0x00#8 → t.runState = .halted ∧ t.fault = s.fault)

/-- R87, R88: whatever fault ends a step, the record is written, run_state is Faulted, A, X, P and the stream are
unchanged. That pc is p after a failed opcode fetch and p + 1 otherwise is the spec's own choice (decision D9,
assumption log 5). -/
def Obligations.FaultsArePrecise : Prop :=
  ∀ s t : State, s.runState = .running → step s = .next t → t.runState = .faulted →
    t.A = s.A ∧ t.X = s.X ∧ t.P = s.P ∧ t.prog = s.prog ∧
    ∃ f, t.fault = some f ∧
      ((f.kind = .streamBounds ∧ f.addr = s.pc ∧ f.byte = none ∧ memRead s s.pc = none ∧ t.pc = s.pc) ∨
       (f.kind = .unrecognizedOpcode ∧ f.addr = s.pc ∧ f.byte = memRead s s.pc ∧ f.byte ≠ none ∧
         t.pc = s.pc + 1#16) ∨
       (f.kind = .streamBounds ∧ f.addr = s.pc + 1#16 ∧ f.byte = none ∧ memRead s s.pc = some 0xA9#8 ∧
         memRead s (s.pc + 1#16) = none ∧ t.pc = s.pc + 1#16))

/-- R61, R62, R68: the core as sub-blocks under the control table, its sequencer moving pc after each fetch, takes
exactly the step that the meanings give. The states compared include pc after a fault, which is the spec's own choice
(decision D9, assumption log 5). -/
def Obligations.DatapathRefinesTheStep : Prop :=
  ∀ s : State, s.runState = .running → step s = .next (sequencerStep s)

/-! ### Who reads and writes what -/

/-- R14: a step writes A only when it is LDA's, and only TAX reads it: two cores that differ in A alone and whose
opcode byte is not TAX's take steps that differ in A alone, and in nothing where LDA writes it. -/
def Obligations.OnlyLdaWritesAOnlyTaxReadsA : Prop :=
  (∀ s t : State, step s = .next t → t.A ≠ s.A → memRead s s.pc = some 0xA9#8) ∧
  (∀ (s t : State) (v : Byte), memRead s s.pc ≠ some 0xAA#8 → step s = .next t →
    step (s.setA v) = .next t ∨ (t.A = s.A ∧ step (s.setA v) = .next (t.setA v)))

/-- R15: a step writes X only when it is TAX's or INX's, and only INX reads it: two cores that differ in X alone and
whose opcode byte is not INX's take steps that differ in X alone, and in nothing where TAX writes it. -/
def Obligations.OnlyTaxAndInxWriteXOnlyInxReadsX : Prop :=
  (∀ s t : State, step s = .next t → t.X ≠ s.X →
    memRead s s.pc = some 0xAA#8 ∨ memRead s s.pc = some 0xE8#8) ∧
  (∀ (s t : State) (v : Byte), memRead s s.pc ≠ some 0xE8#8 → step s = .next t →
    step (s.setX v) = .next t ∨ (t.X = s.X ∧ step (s.setX v) = .next (t.setX v)))

/-- R24: no instruction reads P, and only the flag-update logic writes it, only in bits 1 and 7: of two cores that
differ in P alone, the steps agree on A, X, pc, run_state, fault and stream, and either both leave P as it was or both
replace it by the flag-update logic's byte for one and the same value. The observation reads P as stored, and Z and N.
-/
def Obligations.NoInstructionReadsP : Prop :=
  ∀ (s t u : State) (Q : Byte), step s = .next t → step (s.setP Q) = .next u →
    ReservedKept s.P t.P ∧ ReservedKept Q u.P ∧ u = t.setP u.P ∧
    ((t.P = s.P ∧ u.P = Q) ∨ ∃ v, t.P = flags s.P v ∧ u.P = flags Q v) ∧
    s.observe.P = s.P ∧ s.observe.Z = s.P.getLsbD 1 ∧ s.observe.N = s.P.getLsbD 7

/-- R36, R45: nothing writes the stream: it is the same after any step, and after a whole run it still holds the
program that the caller gave. -/
def Obligations.NothingWritesTheStream : Prop :=
  (∀ s t : State, step s = .next t → t.prog = s.prog) ∧
  (∀ (prog : List Byte) (s t : State), run prog s = .next t → ∀ a : Addr, memRead t a = prog[a.toNat]?)

/-! ### Invariants -/

/-- The reset state meets the invariant. -/
def Obligations.ResetStateIsConsistent : Prop := State.reset.Consistent

/-- From every state that meets the invariant, not only from those a run reaches, a step gives a state that meets it.
The invariant places pc in a Faulted state as the spec's own choice does (decision D9, assumption log 5). -/
def Obligations.StepKeepsConsistency : Prop :=
  ∀ s t : State, s.Consistent → step s = .next t → t.Consistent

/-- The run entry gives a state that meets the invariant, from any state. -/
def Obligations.RunEntryGivesConsistency : Prop :=
  ∀ (prog : List Byte) (s t : State), runEntry prog s = .next t → t.Consistent

/-- R22, whose last two sentences the spec marks as derived and as its decision D21: any step keeps the reserved bits
of P as they were, so in every state that a core can reach from construction they are 0, and the observation returns P
as stored. -/
def Obligations.ReservedBitsStayAsTheyWere : Prop :=
  (∀ s t : State, step s = .next t → ReservedKept s.P t.P) ∧
  (∀ s : State, Reachable s → s.P &&& 0x7D#8 = 0x00#8) ∧
  (∀ s : State, s.observe.P = s.P)

/-- R23: every state that a core can reach has a history, and in every history Z and N follow the last value that a
flag-affecting instruction has written since construction, and are 0 where none has run. The spec marks the last
sentence of R23, on the flags of a core where none has run, as derived. -/
def Obligations.FlagsFollowTheLastWrittenValue : Prop :=
  (∀ s : State, Reachable s → ∃ last, History s last) ∧
  ∀ (s : State) (last : Option Byte), History s last → FlagsFollowLast s.P last

/-- R20, R21, R23 as a step lemma, from any state: where the flags follow the last value written (or are 0 for none),
a step that runs an instruction leaves them following the value it writes, or the same value where it is Halt; a step
that faults, and a step of a core that is not Running, leave them following the same value. -/
def Obligations.StepKeepsFlagsOnTheLastWrittenValue : Prop :=
  ∀ (s t : State) (last : Option Byte), FlagsFollowLast s.P last → step s = .next t →
    (∀ i, s.runState = .running → InstrAtPc s i → FlagsFollowLast t.P ((flagValue i s).or last)) ∧
    (s.runState ≠ .running ∨ t.runState = .faulted → FlagsFollowLast t.P last)

/-! ### Whole runs -/

/-- R74, R111, which the spec marks as derived from R68, R70 and R35: every admitted run ends within PROG_LEN + 1
steps, from any A, X and P, so a larger step limit changes nothing. That `run` has this bound, where R72 writes an
unbounded while, is the model's reading (assumption log 9, DEDUCED). -/
def Obligations.EveryRunEndsWithinItsBound : Prop :=
  ∀ (prog : List Byte) (s : State), prog.length ≤ 65535 → ∃ t, run prog s = .next t ∧ t.runState ≠ .running ∧
    ∀ n, runLoop (prog.length + 1 + n) (beginRun prog s) = .next t

/-- R74, the step behind the bound: from a state that meets the invariant, a step after which the core is still
Running raises pc, and pc stays at most PROG_LEN. -/
def Obligations.ContinuingStepRaisesPc : Prop :=
  ∀ s t : State, s.Consistent → s.runState = .running → step s = .next t → t.runState = .running →
    s.pc.toNat < t.pc.toNat ∧ t.pc.toNat ≤ Memory.progLen t.prog ∧ Memory.progLen t.prog = Memory.progLen s.prog

/-- R73: every run has a last step, from a state of the run's loop that is Running. The run ends Ok(Halted) exactly
when that step decodes 0x00, which then stands in the program just before the final pc; every other end is an error
with the fault record. The place of pc in a Faulted state is the spec's own choice (decision D9, assumption log 5). -/
def Obligations.RunOutcomeIsOkExactlyAtHalt : Prop :=
  ∀ (prog : List Byte) (s t : State), run prog s = .next t →
    (∃ k u, runLoop k (beginRun prog s) = .next u ∧ u.runState = .running ∧ step u = .next t ∧
      (t.lastOutcome = some .ok ↔ memRead u u.pc = some 0x00#8) ∧
      (t.lastOutcome = some .ok → t.pc = u.pc + 1#16)) ∧
    ((t.lastOutcome = some .ok ∧ t.runState = .halted ∧
      ∃ p, p < prog.length ∧ prog[p]? = some 0x00#8 ∧ t.pc.toNat = p + 1) ∨
    (∃ f, t.lastOutcome = some (.err f) ∧ t.runState = .faulted ∧ t.fault = some f ∧ FaultExplained t f))

/-- R58, R83: bytes that a halted run did not reach do not matter: any other program with the same bytes up to the
final pc ends with the same registers, status, pc and outcome. -/
def Obligations.BytesAfterTheHaltDoNotMatter : Prop :=
  ∀ (prog prog' : List Byte) (s t : State), run prog s = .next t → t.runState = .halted →
    prog'.length ≤ 65535 → prog'.take t.pc.toNat = prog.take t.pc.toNat →
    ∃ t', run prog' s = .next t' ∧ t'.observe = t.observe ∧ t'.runState = .halted

/-- R72, R78: a run reads nothing of the state before it but A, X and P: what an earlier run left in pc, run_state,
the fault record and the stream plays no part. -/
def Obligations.RunDependsOnlyOnProgramAXP : Prop :=
  ∀ (prog : List Byte) (s s' : State), s'.A = s.A → s'.X = s.X → s'.P = s.P → run prog s' = run prog s

/-! ### Observation and instances -/

/-- R77, with the spec's own choices D19 (pc has an accessor) and D22 (the outcome stays readable): the accessors give
A, X, P, its bits 1 and 7, pc, and the last outcome, which is none before the first run and is that of the last run
until the next one starts. -/
def Obligations.ObservationReadsTheState : Prop :=
  (∀ s : State, s.observe.A = s.A ∧ s.observe.X = s.X ∧ s.observe.P = s.P ∧ s.observe.Z = s.P.getLsbD 1 ∧
    s.observe.N = s.P.getLsbD 7 ∧ s.observe.pc = s.pc) ∧
  construct.observe.lastOutcome = none ∧
  (∀ s : State, s.runState = .halted → s.observe.lastOutcome = some .ok) ∧
  (∀ (s : State) (f : FaultRecord), s.runState = .faulted → s.fault = some f →
    s.observe.lastOutcome = some (.err f)) ∧
  (∀ (prog : List Byte) (s t : State), runEntry prog s = .next t → t.observe.lastOutcome = none)

/-- R32, R97, on the model's arrangement of instances as a list of states moved one instance at a time, which is the
model's choice (assumption log 12, DESIGN CHOICE): instances share no state: steps and run entries of two instances,
in either order, give the same instances, and leave every other instance as it was. -/
def Obligations.InstancesDoNotInterfere : Prop :=
  ∀ (ps : Platform) (i j : Nat) (prog : List Byte), i ≠ j →
    Platform.stepAt i (Platform.stepAt j ps) = Platform.stepAt j (Platform.stepAt i ps) ∧
    Platform.runEntryAt i prog (Platform.stepAt j ps) = Platform.stepAt j (Platform.runEntryAt i prog ps) ∧
    (Platform.stepAt i ps)[j]? = ps[j]? ∧ (Platform.runEntryAt i prog ps)[j]? = ps[j]?
end

