-- ==== Sys2Proof/Laws/Decode.lean ====
section
/-! SUPPORT. What the opcode decoder gives for each of the four opcodes, and when it gives nothing. -/

namespace Sys2Proof

@[simp] theorem decodeOp_lda : decodeOp 0xA9#8 = .load := by decide
@[simp] theorem decodeOp_tax : decodeOp 0xAA#8 = .transfer := by decide
@[simp] theorem decodeOp_inx : decodeOp 0xE8#8 = .increment := by decide
@[simp] theorem decodeOp_brk : decodeOp 0x00#8 = .halt := by decide

/-- The cases of the decoder on one byte. -/
theorem decodeOp_cases (b : Byte) :
    (b = 0xA9#8 ∧ decodeOp b = .load) ∨ (b = 0xAA#8 ∧ decodeOp b = .transfer) ∨
    (b = 0xE8#8 ∧ decodeOp b = .increment) ∨ (b = 0x00#8 ∧ decodeOp b = .halt) ∨
    ((b ≠ 0xA9#8 ∧ b ≠ 0xAA#8 ∧ b ≠ 0xE8#8 ∧ b ≠ 0x00#8) ∧ decodeOp b = .unrecognized b) := by
  by_cases h1 : b = 0xA9#8
  · exact .inl ⟨h1, by simp [h1]⟩
  by_cases h2 : b = 0xAA#8
  · exact .inr (.inl ⟨h2, by simp [h2]⟩)
  by_cases h3 : b = 0xE8#8
  · exact .inr (.inr (.inl ⟨h3, by simp [h3]⟩))
  by_cases h4 : b = 0x00#8
  · exact .inr (.inr (.inr (.inl ⟨h4, by simp [h4]⟩)))
  exact .inr (.inr (.inr (.inr ⟨⟨h1, h2, h3, h4⟩, by simp [decodeOp, h1, h2, h3, h4]⟩)))

end Sys2Proof
end

