-- ==== Sys2Proof/Laws/State.lean ====
section
/-! SUPPORT. One lemma per field per register write of Machine/Ops.lean, so that no proof unfolds a record update. -/

namespace Sys2Proof.Machine

variable (s : State)

@[simp] theorem State.setA_A (v : Byte) : (s.setA v).A = v := rfl
@[simp] theorem State.setA_X (v : Byte) : (s.setA v).X = s.X := rfl
@[simp] theorem State.setA_P (v : Byte) : (s.setA v).P = s.P := rfl
@[simp] theorem State.setA_pc (v : Byte) : (s.setA v).pc = s.pc := rfl
@[simp] theorem State.setA_runState (v : Byte) : (s.setA v).runState = s.runState := rfl
@[simp] theorem State.setA_fault (v : Byte) : (s.setA v).fault = s.fault := rfl
@[simp] theorem State.setA_prog (v : Byte) : (s.setA v).prog = s.prog := rfl

@[simp] theorem State.setX_A (v : Byte) : (s.setX v).A = s.A := rfl
@[simp] theorem State.setX_X (v : Byte) : (s.setX v).X = v := rfl
@[simp] theorem State.setX_P (v : Byte) : (s.setX v).P = s.P := rfl
@[simp] theorem State.setX_pc (v : Byte) : (s.setX v).pc = s.pc := rfl
@[simp] theorem State.setX_runState (v : Byte) : (s.setX v).runState = s.runState := rfl
@[simp] theorem State.setX_fault (v : Byte) : (s.setX v).fault = s.fault := rfl
@[simp] theorem State.setX_prog (v : Byte) : (s.setX v).prog = s.prog := rfl

@[simp] theorem State.setP_A (v : Byte) : (s.setP v).A = s.A := rfl
@[simp] theorem State.setP_X (v : Byte) : (s.setP v).X = s.X := rfl
@[simp] theorem State.setP_P (v : Byte) : (s.setP v).P = v := rfl
@[simp] theorem State.setP_pc (v : Byte) : (s.setP v).pc = s.pc := rfl
@[simp] theorem State.setP_runState (v : Byte) : (s.setP v).runState = s.runState := rfl
@[simp] theorem State.setP_fault (v : Byte) : (s.setP v).fault = s.fault := rfl
@[simp] theorem State.setP_prog (v : Byte) : (s.setP v).prog = s.prog := rfl

@[simp] theorem State.setPc_A (a : Addr) : (s.setPc a).A = s.A := rfl
@[simp] theorem State.setPc_X (a : Addr) : (s.setPc a).X = s.X := rfl
@[simp] theorem State.setPc_P (a : Addr) : (s.setPc a).P = s.P := rfl
@[simp] theorem State.setPc_pc (a : Addr) : (s.setPc a).pc = a := rfl
@[simp] theorem State.setPc_runState (a : Addr) : (s.setPc a).runState = s.runState := rfl
@[simp] theorem State.setPc_fault (a : Addr) : (s.setPc a).fault = s.fault := rfl
@[simp] theorem State.setPc_prog (a : Addr) : (s.setPc a).prog = s.prog := rfl

@[simp] theorem State.setRunState_A (r : RunState) : (s.setRunState r).A = s.A := rfl
@[simp] theorem State.setRunState_X (r : RunState) : (s.setRunState r).X = s.X := rfl
@[simp] theorem State.setRunState_P (r : RunState) : (s.setRunState r).P = s.P := rfl
@[simp] theorem State.setRunState_pc (r : RunState) : (s.setRunState r).pc = s.pc := rfl
@[simp] theorem State.setRunState_runState (r : RunState) : (s.setRunState r).runState = r := rfl
@[simp] theorem State.setRunState_fault (r : RunState) : (s.setRunState r).fault = s.fault := rfl
@[simp] theorem State.setRunState_prog (r : RunState) : (s.setRunState r).prog = s.prog := rfl

@[simp] theorem State.setFault_A (f : Option FaultRecord) : (s.setFault f).A = s.A := rfl
@[simp] theorem State.setFault_X (f : Option FaultRecord) : (s.setFault f).X = s.X := rfl
@[simp] theorem State.setFault_P (f : Option FaultRecord) : (s.setFault f).P = s.P := rfl
@[simp] theorem State.setFault_pc (f : Option FaultRecord) : (s.setFault f).pc = s.pc := rfl
@[simp] theorem State.setFault_runState (f : Option FaultRecord) : (s.setFault f).runState = s.runState := rfl
@[simp] theorem State.setFault_fault (f : Option FaultRecord) : (s.setFault f).fault = f := rfl
@[simp] theorem State.setFault_prog (f : Option FaultRecord) : (s.setFault f).prog = s.prog := rfl

@[simp] theorem State.setProg_A (m : Memory) : (s.setProg m).A = s.A := rfl
@[simp] theorem State.setProg_X (m : Memory) : (s.setProg m).X = s.X := rfl
@[simp] theorem State.setProg_P (m : Memory) : (s.setProg m).P = s.P := rfl
@[simp] theorem State.setProg_pc (m : Memory) : (s.setProg m).pc = s.pc := rfl
@[simp] theorem State.setProg_runState (m : Memory) : (s.setProg m).runState = s.runState := rfl
@[simp] theorem State.setProg_fault (m : Memory) : (s.setProg m).fault = s.fault := rfl
@[simp] theorem State.setProg_prog (m : Memory) : (s.setProg m).prog = m := rfl

@[simp] theorem State.advancePc_A (n : Nat) : (s.advancePc n).A = s.A := rfl
@[simp] theorem State.advancePc_X (n : Nat) : (s.advancePc n).X = s.X := rfl
@[simp] theorem State.advancePc_P (n : Nat) : (s.advancePc n).P = s.P := rfl
@[simp] theorem State.advancePc_pc (n : Nat) : (s.advancePc n).pc = s.pc + BitVec.ofNat 16 n := rfl
@[simp] theorem State.advancePc_runState (n : Nat) : (s.advancePc n).runState = s.runState := rfl
@[simp] theorem State.advancePc_fault (n : Nat) : (s.advancePc n).fault = s.fault := rfl
@[simp] theorem State.advancePc_prog (n : Nat) : (s.advancePc n).prog = s.prog := rfl

end Sys2Proof.Machine
end

