-- ==== Sys2Proof/Laws/Ops.lean ====
section
/-! SUPPORT. What each shared operation can do, said once: raising a fault, the flag-updating writes, the state changes
of the run entry, and that the operations that make a stream give the canonical form. -/

namespace Sys2Proof.Machine

/-! ### Raising a fault writes run_state and the record and nothing else -/

section
variable (f : FaultRecord) (s : State)

@[simp] theorem raise_A : (raise f s).A = s.A := rfl
@[simp] theorem raise_X : (raise f s).X = s.X := rfl
@[simp] theorem raise_P : (raise f s).P = s.P := rfl
@[simp] theorem raise_pc : (raise f s).pc = s.pc := rfl
@[simp] theorem raise_runState : (raise f s).runState = .faulted := rfl
@[simp] theorem raise_fault : (raise f s).fault = some f := rfl
@[simp] theorem raise_prog : (raise f s).prog = s.prog := rfl

theorem raiseStreamBounds_eq (a : Addr) :
    raiseStreamBounds a s = raise { kind := .streamBounds, addr := a, byte := none } s := rfl
theorem raiseUnrecognizedOpcode_eq (p : Addr) (b : Byte) :
    raiseUnrecognizedOpcode p b s = raise { kind := .unrecognizedOpcode, addr := p, byte := some b } s := rfl

end

/-! ### A flag-updating write writes its register and P and nothing else -/

section
variable (v : Byte) (s : State)

@[simp] theorem writeA_A : (writeA v s).A = v := rfl
@[simp] theorem writeA_X : (writeA v s).X = s.X := rfl
@[simp] theorem writeA_P : (writeA v s).P = flags s.P v := rfl
@[simp] theorem writeA_pc : (writeA v s).pc = s.pc := rfl
@[simp] theorem writeA_runState : (writeA v s).runState = s.runState := rfl
@[simp] theorem writeA_fault : (writeA v s).fault = s.fault := rfl
@[simp] theorem writeA_prog : (writeA v s).prog = s.prog := rfl

@[simp] theorem writeX_A : (writeX v s).A = s.A := rfl
@[simp] theorem writeX_X : (writeX v s).X = v := rfl
@[simp] theorem writeX_P : (writeX v s).P = flags s.P v := rfl
@[simp] theorem writeX_pc : (writeX v s).pc = s.pc := rfl
@[simp] theorem writeX_runState : (writeX v s).runState = s.runState := rfl
@[simp] theorem writeX_fault : (writeX v s).fault = s.fault := rfl
@[simp] theorem writeX_prog : (writeX v s).prog = s.prog := rfl

end

/-! ### The run entry's state changes -/

section
variable (prog : List Byte) (s : State)

@[simp] theorem beginRun_A : (beginRun prog s).A = s.A := rfl
@[simp] theorem beginRun_X : (beginRun prog s).X = s.X := rfl
@[simp] theorem beginRun_P : (beginRun prog s).P = s.P := rfl
@[simp] theorem beginRun_pc : (beginRun prog s).pc = 0x0000#16 := rfl
@[simp] theorem beginRun_runState : (beginRun prog s).runState = .running := rfl
@[simp] theorem beginRun_fault : (beginRun prog s).fault = none := rfl
@[simp] theorem beginRun_prog : (beginRun prog s).prog = Memory.ofBytes prog := rfl

/-- If the run entry answers a next state, the program was admitted and the state is that of `beginRun`. -/
theorem runEntry_next {prog : List Byte} {s t : State} (h : runEntry prog s = .next t) :
    prog.length ≤ Config.maxProgLen ∧ t = beginRun prog s := by
  unfold runEntry at h
  split at h
  · next hwf => exact ⟨of_decide_eq_true hwf, (Host.Outcome.next.inj h).symm⟩
  · cases h

end

/-! ### The canonical form of the stream -/

theorem Memory.ofBytesFrom_length (k : Nat) (bs : List Byte) :
    (Memory.ofBytesFrom k bs).length = bs.length := by
  induction bs generalizing k with
  | nil => rfl
  | cons b bs ih => simp [Memory.ofBytesFrom, ih]

@[simp] theorem Memory.progLen_ofBytes (bs : List Byte) : Memory.progLen (Memory.ofBytes bs) = bs.length :=
  Memory.ofBytesFrom_length 0 bs

theorem Memory.wfFrom_ofBytesFrom (k : Nat) (bs : List Byte) :
    Memory.wfFrom k (Memory.ofBytesFrom k bs) = true := by
  induction bs generalizing k with
  | nil => rfl
  | cons b bs ih => simp [Memory.ofBytesFrom, Memory.wfFrom, ih]

/-- Loading an admitted program gives a stream in canonical form. -/
theorem Memory.wf_ofBytes {bs : List Byte} (h : bs.length ≤ Config.maxProgLen) :
    Memory.wf (Memory.ofBytes bs) = true := by
  simp only [Memory.wf, Bool.and_eq_true, decide_eq_true_eq, Memory.progLen_ofBytes]
  exact ⟨Memory.wfFrom_ofBytesFrom 0 bs, h⟩

/-- The stream of the reset state is in canonical form. -/
theorem reset_prog_wf : Memory.wf State.reset.prog = true := by decide

/-- In the canonical form the addresses listed from `k` on are at least `k`. -/
theorem Memory.le_of_mem_wfFrom {k : Nat} {m : Memory} (h : Memory.wfFrom k m = true) {c : Host.Cell}
    (hc : c ∈ m) : k ≤ c.1 := by
  induction m generalizing k with
  | nil => cases hc
  | cons d m ih =>
    simp only [Memory.wfFrom, Bool.and_eq_true, decide_eq_true_eq] at h
    rcases List.mem_cons.mp hc with rfl | hc
    · exact h.1.ge
    · exact Nat.le_of_succ_le (ih h.2 hc)

/-- In the canonical form the addresses rise strictly, so equal streams are equal lists. -/
theorem Memory.strictly_rising {k : Nat} {m : Memory} (h : Memory.wfFrom k m = true) :
    m.Pairwise (fun c d => c.1 < d.1) := by
  induction m generalizing k with
  | nil => exact List.Pairwise.nil
  | cons c m ih =>
    simp only [Memory.wfFrom, Bool.and_eq_true, decide_eq_true_eq] at h
    exact List.Pairwise.cons (fun d hd => h.1 ▸ Memory.le_of_mem_wfFrom h.2 hd) (ih h.2)

end Sys2Proof.Machine
end

