-- ==== Sys2Proof/Laws/PerInstr.lean ====
section
/-! SUPPORT. Statements for all instructions as syntax, one lemma per constructor. -/

namespace Sys2Proof.Laws.Encoding

/-- An instruction is 1 + operand bytes long, which is 1 or 2, and its first byte is the opcode that the decoder reads
that number of operand bytes from (R47, R52). -/
def Statement (i : Instr) : Prop :=
  ∃ b operands, encode i = b :: operands ∧ operands.length = operandBytes (decodeOp b) ∧
    i.length = 1 + operands.length ∧ i.length ≤ 2

theorem lda (imm8 : Byte) : Statement (.lda imm8) := ⟨opcodeLda, [imm8], rfl, rfl, rfl, Nat.le_refl 2⟩
theorem tax : Statement .tax := ⟨opcodeTax, [], rfl, by decide, rfl, by decide⟩
theorem inx : Statement .inx := ⟨opcodeInx, [], rfl, by decide, rfl, by decide⟩
theorem brk : Statement .brk := ⟨opcodeBrk, [], rfl, by decide, rfl, by decide⟩

end Sys2Proof.Laws.Encoding
end

