-- ==== Sys2Proof/Laws/Step.lean ====
section
/-! SUPPORT. What a step can do, said once: the cases of the fetch, and the form that every step has. -/

namespace Sys2Proof.Machine

/-- The cases of the step of a running core, by the bytes it fetches: the two faults of a fetch, the fault of the
decode, and the four instructions. -/
theorem runningStep_cases (s : State) :
    (memRead s s.pc = none ∧ runningStep s = .next (raiseStreamBounds s.pc s)) ∨
    (memRead s s.pc = some 0xA9#8 ∧ memRead s (s.pc + 1#16) = none ∧
      runningStep s = .next (raiseStreamBounds (s.pc + 1#16) (s.advancePc 1))) ∨
    (∃ v, memRead s s.pc = some 0xA9#8 ∧ memRead s (s.pc + 1#16) = some v ∧ runningStep s = execLda v s) ∨
    (memRead s s.pc = some 0xAA#8 ∧ runningStep s = execTax s) ∨
    (memRead s s.pc = some 0xE8#8 ∧ runningStep s = execInx s) ∨
    (memRead s s.pc = some 0x00#8 ∧ runningStep s = execBrk s) ∨
    (∃ b, memRead s s.pc = some b ∧ (b ≠ 0xA9#8 ∧ b ≠ 0xAA#8 ∧ b ≠ 0xE8#8 ∧ b ≠ 0x00#8) ∧
      runningStep s = .next (raiseUnrecognizedOpcode s.pc b (s.advancePc 1))) := by
  cases hp : memRead s s.pc with
  | none => exact .inl ⟨rfl, by simp [runningStep, instrFetch, hp, decode]⟩
  | some b =>
    obtain ⟨rfl, hd⟩ | ⟨rfl, hd⟩ | ⟨rfl, hd⟩ | ⟨rfl, hd⟩ | ⟨hb, hd⟩ := decodeOp_cases b
    · cases hv : memRead s (s.pc + 1#16) with
      | none =>
        exact .inr (.inl ⟨rfl, rfl, by
          simp [runningStep, instrFetch, operandFetch, operandBytes, hp, hv, decode]⟩)
      | some v =>
        exact .inr (.inr (.inl ⟨v, rfl, rfl, by
          simp [runningStep, instrFetch, operandFetch, operandBytes, hp, hv, decode, exec]⟩))
    · exact .inr (.inr (.inr (.inl ⟨rfl, by
        simp [runningStep, instrFetch, operandFetch, operandBytes, hp, decode, exec]⟩)))
    · exact .inr (.inr (.inr (.inr (.inl ⟨rfl, by
        simp [runningStep, instrFetch, operandFetch, operandBytes, hp, decode, exec]⟩))))
    · exact .inr (.inr (.inr (.inr (.inr (.inl ⟨rfl, by
        simp [runningStep, instrFetch, operandFetch, operandBytes, hp, decode, exec]⟩)))))
    · exact .inr (.inr (.inr (.inr (.inr (.inr ⟨b, rfl, hb, by
        simp [runningStep, instrFetch, hp, decode, hd]⟩)))))

/-- A step of a core that is Running is the step of R68. -/
theorem step_of_running {s : State} (h : s.runState = .running) : step s = runningStep s := by
  simp [step, coreStep, h]

end Sys2Proof.Machine
end

