-- ==== Sys2Proof/Tests/Slice0.lean ====
section
/-! SUPPORT. The model's own tests. Expected values come from spec/95_test_vectors.md or from the rule a test names, and
each step test is one step. Below them stand the witnesses: concrete inputs that meet the hypotheses of the statements of
Certificates/Slice0/Obligations.lean, at the ends of their ranges. -/

namespace Sys2Proof.Machine

/-- The next state of an outcome, if it is one. -/
def nextState? : Host.Outcome State Fault Refusal → Option State
  | .next t => some t
  | .fault _ => none
  | .refused _ => none

/-- A core with the given registers at the start of a run of `prog`. -/
def launched (A X P : Byte) (prog : List Byte) : State :=
  beginRun prog (((State.reset.setA A).setX X).setP P)

/-- What a step test looks at: every field of the state but the stream. -/
structure After where
  A : Byte
  X : Byte
  P : Byte
  pc : Addr
  runState : RunState
  fault : Option FaultRecord
  deriving DecidableEq, Repr

/-- What stands after one step of `launched`. -/
def stepped (A X P : Byte) (prog : List Byte) : Option After :=
  (nextState? (step (launched A X P prog))).map fun t => ⟨t.A, t.X, t.P, t.pc, t.runState, t.fault⟩

/-! ### Well-formedness: the checks refuse ill-formed terms (R34, R33) -/

theorem test_wf_admits_longest_program : Program.wf (List.replicate 65535 0x00#8) = true := by
  unfold Program.wf
  rw [List.length_replicate]
  rfl
theorem test_wf_refuses_longer_program : Program.wf (List.replicate 65536 0x00#8) = false := by
  unfold Program.wf
  rw [List.length_replicate]
  rfl
theorem test_wf_admits_empty_program : Program.wf [] = true := by decide
theorem test_wf_admits_every_operand_end : (Instr.lda 0x00#8).wf = true ∧ (Instr.lda 0xFF#8).wf = true := by decide
theorem test_stream_wf_refuses_gap : Memory.wf [(0, 0x00#8), (2, 0x00#8)] = false := by decide
theorem test_stream_wf_refuses_other_base : Memory.wf [(1, 0x00#8)] = false := by decide
theorem test_stream_wf_refuses_repeat : Memory.wf [(0, 0x00#8), (0, 0x01#8)] = false := by decide

/-! ### Decoding: words written out bit by bit from R51, and the unrecognized bytes at the ends of the ranges of R54 -/

theorem test_decode_lda : decode [0b10101001#8, 0b00000101#8] = .instr (.lda 0x05#8) [] := by decide
theorem test_decode_tax : decode [0b10101010#8] = .instr .tax [] := by decide
theorem test_decode_inx : decode [0b11101000#8] = .instr .inx [] := by decide
theorem test_decode_brk : decode [0b00000000#8] = .instr .brk [] := by decide
theorem test_decode_keeps_the_rest : decode [0xE8#8, 0xA9#8, 0x07#8] = .instr .inx [0xA9#8, 0x07#8] := by decide
theorem test_decode_refuses : decode [] = .noOpcode ∧ decode [0xA9#8] = .noOperand ∧
    decode [0x69#8, 0x01#8] = .unrecognized 0x69#8 := by decide
theorem test_decode_range_ends : ∀ b ∈ [0x01#8, 0xA8#8, 0xAB#8, 0xE7#8, 0xE9#8, 0xEA#8, 0xFF#8],
    decodeOp b = .unrecognized b := by decide
theorem test_table_words : decodeTableWord 16 0xC0A9 = some (.lda 0xC0#8) ∧ decodeTableWord 8 0xA9 = some (.lda 0x00#8) ∧
    decodeTableWord 8 0xAA = some .tax ∧ decodeTableWord 8 0xE8 = some .inx ∧ decodeTableWord 8 0x00 = some .brk ∧
    decodeTableWord 8 0xA8 = none := by decide
theorem test_program_image :
    decodeProgram [0xA9#8, 0xFE#8, 0xAA#8, 0xE8#8, 0x00#8] = some [.lda 0xFE#8, .tax, .inx, .brk] := by decide

/-! ### The flag-update logic and the ALU stub: the vectors of 95_test_vectors.md sections 2.2 and 2.3 -/

theorem test_alu_vectors : alu .pass 0x80#8 = 0x80#8 ∧ alu .inc 0x00#8 = 0x01#8 ∧ alu .inc 0x7F#8 = 0x80#8 ∧
    alu .inc 0xFE#8 = 0xFF#8 ∧ alu .inc 0xFF#8 = 0x00#8 := by decide
theorem test_flag_vectors : flags 0x00#8 0x00#8 = 0x02#8 ∧ flags 0x00#8 0x7F#8 = 0x00#8 ∧
    flags 0x00#8 0x80#8 = 0x80#8 ∧ flags 0x82#8 0x05#8 = 0x00#8 ∧ flags 0x82#8 0x00#8 = 0x02#8 ∧
    flags 0xFF#8 0x05#8 = 0x7D#8 ∧ flags 0xFF#8 0x00#8 = 0x7F#8 ∧ flags 0xFF#8 0x80#8 = 0xFD#8 ∧
    flags 0x7D#8 0x90#8 = 0xFD#8 := by decide

/-! ### One step of each instruction (95_test_vectors.md sections 2.4 to 2.7) -/

/-- LDA-6. -/
theorem test_lda_replaces_flags : stepped 0x33#8 0x44#8 0x82#8 [0xA9#8, 0x05#8, 0x00#8] =
    some ⟨0x05#8, 0x44#8, 0x00#8, 0x0002#16, .running, none⟩ := by decide
/-- LDA-9. -/
theorem test_lda_without_operand : stepped 0x12#8 0x00#8 0x00#8 [0xA9#8] =
    some ⟨0x12#8, 0x00#8, 0x00#8, 0x0001#16, .faulted, some ⟨.streamBounds, 0x0001#16, none⟩⟩ := by decide
/-- TAX-1. -/
theorem test_tax_zero : stepped 0x00#8 0x00#8 0x00#8 [0xAA#8, 0x00#8] =
    some ⟨0x00#8, 0x00#8, 0x02#8, 0x0001#16, .running, none⟩ := by decide
/-- TAX-4. -/
theorem test_tax_negative : stepped 0xFF#8 0x12#8 0x02#8 [0xAA#8, 0x00#8] =
    some ⟨0xFF#8, 0xFF#8, 0x80#8, 0x0001#16, .running, none⟩ := by decide
/-- INX-6. -/
theorem test_inx_wraps_and_keeps_reserved : stepped 0x00#8 0xFF#8 0x7D#8 [0xE8#8, 0x00#8] =
    some ⟨0x00#8, 0x00#8, 0x7F#8, 0x0001#16, .running, none⟩ := by decide
/-- INX-2. -/
theorem test_inx_signed_overflow : stepped 0x00#8 0x7F#8 0x00#8 [0xE8#8, 0x00#8] =
    some ⟨0x00#8, 0x80#8, 0x80#8, 0x0001#16, .running, none⟩ := by decide
/-- HLT-2. -/
theorem test_brk_keeps_registers : stepped 0x80#8 0xC1#8 0x80#8 [0x00#8] =
    some ⟨0x80#8, 0xC1#8, 0x80#8, 0x0001#16, .halted, none⟩ := by decide
/-- HLT-4. -/
theorem test_brk_ignores_what_follows : stepped 0x00#8 0x00#8 0x00#8 [0x00#8, 0xFF#8] =
    some ⟨0x00#8, 0x00#8, 0x00#8, 0x0001#16, .halted, none⟩ := by decide

/-! ### Faults, the loop and the interface -/

/-- F-1. -/
theorem test_empty_program_faults : stepped 0x00#8 0x00#8 0x00#8 [] =
    some ⟨0x00#8, 0x00#8, 0x00#8, 0x0000#16, .faulted, some ⟨.streamBounds, 0x0000#16, none⟩⟩ := by decide
/-- F-5: decode is checked before any operand. -/
theorem test_unrecognized_last_byte : stepped 0x00#8 0x00#8 0x00#8 [0xFF#8] =
    some ⟨0x00#8, 0x00#8, 0x00#8, 0x0001#16, .faulted, some ⟨.unrecognizedOpcode, 0x0000#16, some 0xFF#8⟩⟩ := by decide
/-- R70: a core that is only constructed does nothing. -/
theorem test_idle_core_stands : nextState? (step State.reset) = some State.reset := by decide
/-- Scenario S4: A9 C0 AA 00. -/
theorem test_run_s4 : (nextState? (run [0xA9#8, 0xC0#8, 0xAA#8, 0x00#8] State.reset)).map State.observe =
    some ⟨0xC0#8, 0xC0#8, 0x80#8, false, true, 0x0004#16, some .ok⟩ := by decide
/-- The host's probe of a table row, after reset. -/
theorem test_fetch_word_runs : (nextState? (step (State.reset.withFetchWord 16 0x05A9))).map State.A = some 0x05#8 := by
  decide

/-! ### Witnesses: inputs that meet the hypotheses of the statements -/

/-- A running core in the middle of a program: LDA's two bytes are done, TAX stands at pc. -/
def midRun : State := (launched 0xC0#8 0x00#8 0x80#8 [0xA9#8, 0xC0#8, 0xAA#8]).setPc 0x0002#16

theorem witness_admitted_lengths : ([] : List Byte).length ≤ 65535 ∧ (List.replicate 65535 0xE8#8).length ≤ 65535 ∧
    65535 < (List.replicate 65536 0xE8#8).length := by
  rw [List.length_replicate, List.length_replicate]
  decide
theorem witness_run_entry : runEntry [0x00#8] State.reset = .next (launched 0x00#8 0x00#8 0x00#8 [0x00#8]) := rfl
theorem witness_stream_ends : Memory.wf midRun.prog = true ∧ memRead midRun 0x0000#16 = some 0xA9#8 ∧
    memRead midRun 0x0002#16 = some 0xAA#8 ∧ memRead midRun 0x0003#16 = none ∧ memRead midRun 0xFFFF#16 = none := by
  decide
theorem witness_unrecognized : Unrecognized 0x01#8 ∧ Unrecognized 0xA8#8 ∧ Unrecognized 0xAB#8 ∧ Unrecognized 0xE7#8 ∧
    Unrecognized 0xE9#8 ∧ Unrecognized 0xFF#8 := by
  unfold Unrecognized
  decide
theorem witness_program_image : decodeProgram [0xE8#8, 0xA9#8, 0x00#8] = some [.inx, .lda 0x00#8] := by decide
theorem witness_instr_at_pc : midRun.runState = .running ∧ InstrAtPc midRun .tax ∧
    InstrAtPc (launched 0x00#8 0x00#8 0x00#8 [0xA9#8, 0xFF#8]) (.lda 0xFF#8) := by
  unfold InstrAtPc
  decide
theorem witness_fetch_word : decodeTableWord 16 0xFFA9 = some (.lda 0xFF#8) ∧ decodeTableWord 8 0x00 = some .brk := by
  decide
/-- Each clause of LdaStep: the stream ends before the opcode, after the operand, and between the two. -/
theorem witness_lda_step :
    (launched 0x12#8 0x00#8 0x00#8 []).runState = .running ∧ memRead (launched 0x12#8 0x00#8 0x00#8 []) 0x0000#16 = none ∧
    memRead (launched 0x12#8 0x00#8 0x00#8 [0xA9#8, 0x80#8]) 0x0000#16 = some 0xA9#8 ∧
    memRead (launched 0x12#8 0x00#8 0x00#8 [0xA9#8, 0x80#8]) 0x0001#16 = some 0x80#8 ∧
    memRead (launched 0x12#8 0x00#8 0x00#8 [0xA9#8]) 0x0000#16 = some 0xA9#8 ∧
    memRead (launched 0x12#8 0x00#8 0x00#8 [0xA9#8]) 0x0001#16 = none := by decide
theorem witness_tax_step : midRun.runState = .running ∧ memRead midRun midRun.pc = some 0xAA#8 ∧
    memRead midRun (midRun.pc + 1#16) = none := by decide
/-- Both cases of the increment, at X = 0xFF and at X = 0xFE, with INX the last byte of the stream. -/
theorem witness_inx_step :
    memRead (launched 0x00#8 0xFF#8 0x00#8 [0xE8#8]) 0x0000#16 = some 0xE8#8 ∧
    memRead (launched 0x00#8 0xFF#8 0x00#8 [0xE8#8]) 0x0001#16 = none ∧
    (launched 0x00#8 0xFF#8 0x00#8 [0xE8#8]).X = 0xFF#8 ∧ (launched 0x00#8 0xFE#8 0x00#8 [0xE8#8]).X ≠ 0xFF#8 := by decide
theorem witness_brk_step : (launched 0x80#8 0xC1#8 0x80#8 [0x00#8]).runState = .running ∧
    memRead (launched 0x80#8 0xC1#8 0x80#8 [0x00#8]) 0x0000#16 = some 0x00#8 := by decide
theorem witness_unrecognized_at_pc : (launched 0x00#8 0x00#8 0x00#8 [0x69#8]).runState = .running ∧
    memRead (launched 0x00#8 0x00#8 0x00#8 [0x69#8]) 0x0000#16 = some 0x69#8 ∧ Unrecognized 0x69#8 := by
  unfold Unrecognized
  decide
/-- A step that answers a next state with each of the three faults, for the claims about a step that faults. -/
theorem witness_faulting_steps :
    (∃ t, step (launched 0x00#8 0x00#8 0x00#8 []) = .next t ∧ t.runState = .faulted) ∧
    (∃ t, step (launched 0x00#8 0x00#8 0x00#8 [0x69#8]) = .next t ∧ t.runState = .faulted) ∧
    (∃ t, step (launched 0x00#8 0x00#8 0x00#8 [0xA9#8]) = .next t ∧ t.runState = .faulted) :=
  ⟨⟨_, rfl, rfl⟩, ⟨_, rfl, rfl⟩, ⟨_, rfl, rfl⟩⟩
theorem witness_not_running : State.reset.runState ≠ .running := by decide
theorem witness_consistent : midRun.Consistent ∧ midRun.runState = .running ∧
    ∃ t, step midRun = .next t ∧ t.runState = .running ∧ t.pc = 0x0003#16 :=
  ⟨⟨by decide, by decide, rfl⟩, rfl, _, rfl, rfl, rfl⟩
/-- The flags follow the last value written, and a step runs an instruction; one faults; one is of a core that is not
Running and where no value has been written. -/
theorem witness_flags_follow_last :
    (FlagsFollowLast midRun.P (some 0xC0#8) ∧ InstrAtPc midRun .tax ∧ ∃ t, step midRun = .next t) ∧
    (∃ t, step (launched 0x00#8 0x00#8 0x00#8 []) = .next t ∧ t.runState = .faulted ∧
      FlagsFollowLast (launched 0x00#8 0x00#8 0x00#8 []).P none) ∧
    (State.reset.runState ≠ .running ∧ FlagsFollowLast State.reset.P none ∧ ∃ t, step State.reset = .next t) :=
  ⟨⟨⟨rfl, rfl⟩, witness_instr_at_pc.2.1, _, rfl⟩, ⟨_, rfl, rfl, rfl, rfl⟩, by decide, ⟨rfl, rfl⟩, _, rfl⟩
/-- A step that writes A, one that writes X, and cores that differ in one register with another opcode at pc. -/
theorem witness_register_writers :
    (∃ t, step (launched 0x00#8 0x00#8 0x00#8 [0xA9#8, 0x05#8]) = .next t ∧ t.A ≠ 0x00#8) ∧
    (∃ t, step (launched 0x05#8 0x00#8 0x00#8 [0xAA#8]) = .next t ∧ t.X ≠ 0x00#8) ∧
    memRead (launched 0x00#8 0x00#8 0x00#8 [0xE8#8]) 0x0000#16 ≠ some 0xAA#8 ∧
    memRead (launched 0x00#8 0x00#8 0x00#8 [0xAA#8]) 0x0000#16 ≠ some 0xE8#8 :=
  ⟨⟨_, rfl, by decide⟩, ⟨_, rfl, by decide⟩, by decide, by decide⟩
theorem witness_differ_in_P : ∃ t u, step midRun = .next t ∧ step (midRun.setP 0x7F#8) = .next u ∧ u.P = 0xFD#8 :=
  ⟨_, _, rfl, rfl, rfl⟩
/-- A core that can be reached and whose last written value is 0x80, and one where no value has been written. -/
theorem witness_history : History construct none ∧
    ∃ t, Reachable t ∧ History t (some 0x80#8) ∧ t.P = 0x80#8 := by
  have entry : runEntry [0xA9#8, 0x80#8] construct = .next (beginRun [0xA9#8, 0x80#8] construct) := rfl
  have atPc : InstrAtPc (beginRun [0xA9#8, 0x80#8] construct) (.lda 0x80#8) := by
    unfold InstrAtPc
    decide
  exact ⟨.construct, _, .step (.runEntry _ .construct entry) rfl,
    .executed (.runEntry _ .construct entry) rfl atPc rfl, rfl⟩
/-- A run that ends by Halt, one that ends with a fault, and a second program with the same bytes up to the Halt. -/
theorem witness_runs :
    (∃ t, run [0xE8#8, 0x00#8, 0xFF#8] State.reset = .next t ∧ t.runState = .halted ∧
      [0xE8#8, 0x00#8].length ≤ 65535 ∧
      [0xE8#8, 0x00#8].take t.pc.toNat = [0xE8#8, 0x00#8, 0xFF#8].take t.pc.toNat) ∧
    (∃ t, run [0xE8#8] State.reset = .next t ∧ t.runState = .faulted) :=
  ⟨⟨_, rfl, rfl, by decide, rfl⟩, ⟨_, rfl, rfl⟩⟩
/-- Two states that agree in A, X and P and in nothing else. -/
theorem witness_same_registers : ((midRun.setA 0x00#8).setP 0x00#8).A = State.reset.A ∧
    ((midRun.setA 0x00#8).setP 0x00#8).X = State.reset.X ∧ ((midRun.setA 0x00#8).setP 0x00#8).P = State.reset.P ∧
    ((midRun.setA 0x00#8).setP 0x00#8).pc ≠ State.reset.pc ∧
    ((midRun.setA 0x00#8).setP 0x00#8).runState ≠ State.reset.runState := by decide
/-- A core in each of the two ends of a run, for the outcome that the observation reads. -/
theorem witness_outcomes :
    (∃ t, step (launched 0x00#8 0x00#8 0x00#8 [0x00#8]) = .next t ∧ t.runState = .halted) ∧
    (∃ t f, step (launched 0x00#8 0x00#8 0x00#8 []) = .next t ∧ t.runState = .faulted ∧ t.fault = some f) :=
  ⟨⟨_, rfl, rfl⟩, ⟨_, _, rfl, rfl, rfl⟩⟩
/-- Two instances at different positions, of which one step moves the second alone. -/
theorem witness_two_instances : (0 : Nat) ≠ 1 ∧
    (Platform.stepAt 1 [State.reset, midRun])[0]? = some State.reset ∧
    (Platform.stepAt 1 [State.reset, midRun])[1]? ≠ some midRun := by decide

end Sys2Proof.Machine
end

/-! SUPPORT. Facts about the flag-update logic, the reserved bits of P, and reads of the stream. -/

namespace Sys2Proof.Machine

/-! ### The flag-update logic (R65) and the reserved bits of P (R22) -/

/-- The mask selects every bit but Z's and N's (R22). -/
theorem getLsbD_reservedMask {i : Nat} (hi : i < 8) : reservedMask.getLsbD i = decide (i ≠ 1 ∧ i ≠ 7) := by
  decide +revert

/-- The flag-update logic bit by bit: bit 1 is Z's, bit 7 is N's, and every other bit is copied (R65). -/
theorem getLsbD_flags (P v : Byte) {i : Nat} (hi : i < 8) :
    (flags P v).getLsbD i =
      if i = 1 then decide (v = 0x00#8) else if i = 7 then v.getLsbD 7 else P.getLsbD i := by
  by_cases hv : v = 0x00#8 <;> interval_cases i <;> simp [flags, reservedMask, hv]

theorem flagsFollow_flags (P v : Byte) : FlagsFollow (flags P v) v :=
  ⟨getLsbD_flags P v (by decide : 1 < 8), getLsbD_flags P v (by decide : 7 < 8)⟩

theorem reservedKept_flags (P v : Byte) : ReservedKept P (flags P v) := fun i hi h1 h7 => by
  rw [getLsbD_flags P v hi, if_neg h1, if_neg h7]

/-- A byte has the reserved bits of another exactly when the two agree under the mask. -/
theorem reservedKept_iff {P Q : Byte} : ReservedKept P Q ↔ Q &&& reservedMask = P &&& reservedMask := by
  constructor
  · intro h
    refine BitVec.eq_of_getLsbD_eq fun i hi => ?_
    by_cases hi' : i ≠ 1 ∧ i ≠ 7
    · simp [BitVec.getLsbD_and, h i hi hi'.1 hi'.2]
    · simp [BitVec.getLsbD_and, getLsbD_reservedMask hi, hi']
  · intro h i hi h1 h7
    have hbit := congrArg (·.getLsbD i) h
    simpa [BitVec.getLsbD_and, getLsbD_reservedMask hi, h1, h7] using hbit

theorem ReservedKept.refl (P : Byte) : ReservedKept P P := fun _ _ _ _ => rfl

/-! ### Reads of the stream -/

/-- A read depends on the stream alone. -/
theorem memRead_congr {s t : State} (h : t.prog = s.prog) (a : Addr) : memRead t a = memRead s a := by
  simp only [memRead, h]

/-- In the canonical form every address from the first one listed up to the last reads as a byte. -/
theorem Memory.read_ne_none_of_wfFrom {k a : Nat} {m : Memory} (h : Memory.wfFrom k m = true) (hk : k ≤ a)
    (ha : a < k + Memory.progLen m) : Memory.read m a ≠ none := by
  induction m generalizing k with
  | nil => exact absurd ha (Nat.not_lt.mpr hk)
  | cons c m ih =>
    obtain ⟨j, b⟩ := c
    simp only [Memory.wfFrom, Bool.and_eq_true, decide_eq_true_eq] at h
    obtain ⟨rfl, hm⟩ := h
    by_cases hja : j = a
    · simp [Memory.read, hja]
    · have hlen : a < j + 1 + Memory.progLen m := by
        simp only [Memory.progLen, List.length_cons] at ha ⊢
        omega
      simpa [Memory.read, hja] using ih hm (by omega) hlen

/-- On a stream in canonical form a read gives no byte exactly at or beyond the end (R35). -/
theorem memRead_eq_none_iff {s : State} (hwf : Memory.wf s.prog = true) (a : Addr) :
    memRead s a = none ↔ Memory.progLen s.prog ≤ a.toNat := by
  have hfrom : Memory.wfFrom 0 s.prog = true := (Bool.and_eq_true _ _ ▸ hwf).1
  unfold memRead
  split
  · next hle => exact iff_of_true rfl hle
  · next hlt =>
    exact iff_of_false (Memory.read_ne_none_of_wfFrom hfrom (Nat.zero_le _) (by omega)) hlt

theorem lt_progLen_of_memRead {s : State} {a : Addr} {b : Byte} (h : memRead s a = some b) :
    a.toNat < Memory.progLen s.prog := by
  by_contra hge
  simp [memRead, Nat.not_lt.mp hge] at h

theorem progLen_le_of_wf {m : Memory} (h : Memory.wf m = true) : Memory.progLen m ≤ 65535 := by
  simp only [Memory.wf, Bool.and_eq_true, decide_eq_true_eq] at h
  exact h.2

/-- The address after a byte of the stream is in the stream or at its end, and reaching it does not wrap (R27). -/
theorem toNat_succ_of_memRead {s : State} {a : Addr} {b : Byte} (hwf : Memory.wf s.prog = true)
    (h : memRead s a = some b) :
    (a + 1#16).toNat = a.toNat + 1 ∧ a.toNat + 1 ≤ Memory.progLen s.prog := by
  have hlt := lt_progLen_of_memRead h
  have hlen := progLen_le_of_wf hwf
  have hadd : (a + 1#16).toNat = a.toNat + 1 := by bv_omega
  exact ⟨hadd, hlt⟩

end Sys2Proof.Machine

/-! SUPPORT. The instruction at pc, and the step as a relation: what each step does, said once in both directions. -/

namespace Sys2Proof.Machine

/-! ### The bytes of an instruction at pc -/

theorem instrAtPc_lda {s : State} {v : Byte} :
    InstrAtPc s (.lda v) ↔ memRead s s.pc = some 0xA9#8 ∧ memRead s (s.pc + 1#16) = some v := by
  constructor
  · intro h
    exact ⟨by simpa [encode] using h 0 (by decide : 0 < 2), h 1 (by decide : 1 < 2)⟩
  · rintro ⟨hop, hv⟩ k hk
    match k, hk with
    | 0, _ => simpa [encode] using hop
    | 1, _ => exact hv

/-- An implied instruction stands at pc exactly when its opcode does. -/
theorem instrAtPc_of_encode_singleton {s : State} {i : Instr} {b : Byte} (hi : encode i = [b]) :
    InstrAtPc s i ↔ memRead s s.pc = some b := by
  simp [InstrAtPc, hi]

theorem instrAtPc_tax {s : State} : InstrAtPc s .tax ↔ memRead s s.pc = some 0xAA#8 :=
  instrAtPc_of_encode_singleton rfl

theorem instrAtPc_inx {s : State} : InstrAtPc s .inx ↔ memRead s s.pc = some 0xE8#8 :=
  instrAtPc_of_encode_singleton rfl

theorem instrAtPc_brk {s : State} : InstrAtPc s .brk ↔ memRead s s.pc = some 0x00#8 :=
  instrAtPc_of_encode_singleton rfl

/-- Which instruction stands at pc depends on pc and the stream alone. -/
theorem InstrAtPc.congr {s t : State} {i : Instr} (h : InstrAtPc s i) (hpc : t.pc = s.pc)
    (hprog : t.prog = s.prog) : InstrAtPc t i := fun k hk => by
  rw [memRead_congr hprog, hpc]
  exact h k hk

/-- The fetch of an instruction that stands at pc gives its bytes, which decode to it. -/
theorem decode_instrFetch_of_instrAtPc {s : State} {i : Instr} (h : InstrAtPc s i) :
    decode (instrFetch s) = .instr i [] := by
  cases i with
  | lda v =>
    obtain ⟨hop, hv⟩ := instrAtPc_lda.mp h
    simp [instrFetch, operandFetch, operandBytes, hop, hv, decode]
  | tax => simp [instrFetch, operandFetch, operandBytes, instrAtPc_tax.mp h, decode]
  | inx => simp [instrFetch, operandFetch, operandBytes, instrAtPc_inx.mp h, decode]
  | brk => simp [instrFetch, operandFetch, operandBytes, instrAtPc_brk.mp h, decode]

/-! ### The state that an instruction leaves -/

/-- The state after an instruction; no meaning answers anything else (`exec_eq_next`). -/
def afterInstr (i : Instr) (s : State) : State :=
  match i with
  | .lda v => (writeA v s).advancePc 2
  | .tax => (writeX s.A s).advancePc 1
  | .inx => (writeX (s.X + 1#8) s).advancePc 1
  | .brk => (s.advancePc 1).setRunState .halted

theorem exec_eq_next (i : Instr) (s : State) : exec i s = .next (afterInstr i s) := by
  cases i <;> rfl

section
variable (i : Instr) (s : State)

@[simp] theorem afterInstr_prog : (afterInstr i s).prog = s.prog := by cases i <;> rfl
@[simp] theorem afterInstr_fault : (afterInstr i s).fault = s.fault := by cases i <;> rfl

/-- Every instruction moves pc by its length (R26). -/
@[simp] theorem afterInstr_pc : (afterInstr i s).pc = s.pc + BitVec.ofNat 16 (encode i).length := by
  cases i <;> rfl

/-- P is replaced by the flag-update logic's byte for the value written, and kept where none is (R24, R67). -/
@[simp] theorem afterInstr_P : (afterInstr i s).P = (flagValue i s).elim s.P (flags s.P) := by cases i <;> rfl

/-- Only Halt changes run_state (R62). -/
@[simp] theorem afterInstr_runState :
    (afterInstr i s).runState = if i = .brk then .halted else s.runState := by cases i <;> rfl

end

/-! ### The step as a relation -/

/-- `FaultAt s f n`: the step of a Running core in state `s` raises the fault with record `f`, after moving pc by `n`
(the causes of R84 in the order of R90; pc at the raise point is the spec's own choice D9). -/
inductive FaultAt (s : State) : FaultRecord → Nat → Prop
  | opcodeMissing : memRead s s.pc = none → FaultAt s ⟨.streamBounds, s.pc, none⟩ 0
  | operandMissing : memRead s s.pc = some 0xA9#8 → memRead s (s.pc + 1#16) = none →
      FaultAt s ⟨.streamBounds, s.pc + 1#16, none⟩ 1
  | unrecognized {b : Byte} : memRead s s.pc = some b → Unrecognized b →
      FaultAt s ⟨.unrecognizedOpcode, s.pc, some b⟩ 1

/-- `StepsTo s t`: the step of a core in state `s` leaves it in state `t` (`step_eq_next_iff`). -/
inductive StepsTo (s : State) : State → Prop
  | notRunning : s.runState ≠ .running → StepsTo s s
  | executed (i : Instr) : s.runState = .running → InstrAtPc s i → StepsTo s (afterInstr i s)
  | faulted {f : FaultRecord} {n : Nat} : s.runState = .running → FaultAt s f n →
      StepsTo s (raise f (s.advancePc n))

/-- What causes a fault depends on pc and the stream alone. -/
theorem FaultAt.congr {s t : State} {f : FaultRecord} {n : Nat} (h : FaultAt s f n) (hpc : t.pc = s.pc)
    (hprog : t.prog = s.prog) : FaultAt t f n := by
  cases h with
  | opcodeMissing hop => exact hpc ▸ .opcodeMissing (by rwa [memRead_congr hprog, hpc])
  | operandMissing hop hv =>
    exact hpc ▸ .operandMissing (by rwa [memRead_congr hprog, hpc]) (by rwa [memRead_congr hprog, hpc])
  | unrecognized hop hb => exact hpc ▸ .unrecognized (by rwa [memRead_congr hprog, hpc]) hb

theorem advancePc_zero (s : State) : s.advancePc 0 = s := by
  simp [State.advancePc, State.setPc]

theorem decodeOp_of_unrecognized {b : Byte} (h : Unrecognized b) : decodeOp b = .unrecognized b := by
  obtain ⟨hlda, htax, hinx, hbrk⟩ := h
  simp [decodeOp, hlda, htax, hinx, hbrk]

theorem runningStep_of_faultAt {s : State} {f : FaultRecord} {n : Nat} (h : FaultAt s f n) :
    runningStep s = .next (raise f (s.advancePc n)) := by
  cases h with
  | opcodeMissing hop => simp [runningStep, instrFetch, hop, decode, raiseStreamBounds_eq, advancePc_zero]
  | operandMissing hop hv =>
    simp [runningStep, instrFetch, operandFetch, operandBytes, hop, hv, decode, raiseStreamBounds_eq]
  | unrecognized hop hb =>
    simp [runningStep, instrFetch, hop, decode, decodeOp_of_unrecognized hb, raiseUnrecognizedOpcode_eq]

/-- Either an instruction stands at pc or the step faults (R90). -/
theorem instrAtPc_or_faultAt (s : State) : (∃ i, InstrAtPc s i) ∨ ∃ f n, FaultAt s f n := by
  obtain ⟨hop, -⟩ | ⟨hop, hv, -⟩ | ⟨v, hop, hv, -⟩ | ⟨hop, -⟩ | ⟨hop, -⟩ | ⟨hop, -⟩ | ⟨b, hop, hb, -⟩ :=
    runningStep_cases s
  · exact .inr ⟨_, _, .opcodeMissing hop⟩
  · exact .inr ⟨_, _, .operandMissing hop hv⟩
  · exact .inl ⟨_, instrAtPc_lda.mpr ⟨hop, hv⟩⟩
  · exact .inl ⟨_, instrAtPc_tax.mpr hop⟩
  · exact .inl ⟨_, instrAtPc_inx.mpr hop⟩
  · exact .inl ⟨_, instrAtPc_brk.mpr hop⟩
  · exact .inr ⟨_, _, .unrecognized hop hb⟩

/-- A step of a core that is not Running answers the state itself (R70, assumption log 2). -/
theorem step_of_not_running {s : State} (hrun : s.runState ≠ .running) : step s = .next s := by
  cases hs : s.runState with
  | running => exact absurd hs hrun
  | _ => simp [step, coreStep, hs]

theorem StepsTo.step_eq {s t : State} (h : StepsTo s t) : step s = .next t := by
  cases h with
  | notRunning hrun => exact step_of_not_running hrun
  | executed i hrun hi =>
    rw [step_of_running hrun, runningStep, decode_instrFetch_of_instrAtPc hi, ← exec_eq_next]
  | faulted hrun hf => rw [step_of_running hrun, runningStep_of_faultAt hf]

/-- Every step answers a next state, by one of the three forms. -/
theorem exists_stepsTo (s : State) : ∃ t, StepsTo s t := by
  by_cases hrun : s.runState = .running
  · obtain ⟨i, hi⟩ | ⟨f, n, hf⟩ := instrAtPc_or_faultAt s
    · exact ⟨_, .executed i hrun hi⟩
    · exact ⟨_, .faulted hrun hf⟩
  · exact ⟨s, .notRunning hrun⟩

/-- The step function and the relation agree; proofs about a step split on the forms of `StepsTo`. -/
theorem step_eq_next_iff {s t : State} : step s = .next t ↔ StepsTo s t := by
  refine ⟨fun h => ?_, StepsTo.step_eq⟩
  obtain ⟨u, hu⟩ := exists_stepsTo s
  obtain rfl : u = t := Host.Outcome.next.inj (hu.step_eq.symm.trans h)
  exact hu

/-- Where an instruction stands at pc of a Running core, the step is that instruction. -/
theorem eq_afterInstr_of_step {s t : State} {i : Instr} (hrun : s.runState = .running) (hi : InstrAtPc s i)
    (h : step s = .next t) : t = afterInstr i s :=
  Host.Outcome.next.inj (h.symm.trans (StepsTo.executed i hrun hi).step_eq)

end Sys2Proof.Machine

/-! CLAIMS. The invariant State.Consistent: it holds at reset, every step keeps it, and so pc never wraps. -/

namespace Sys2Proof.Machine

/-- Settles O1, by the values of `State.reset`. -/
theorem constructionGivesResetState : Obligations.ConstructionGivesResetState :=
  ⟨rfl, rfl, rfl, rfl, rfl, rfl⟩

/-- Settles O35: the stream is empty and pc is 0. -/
theorem resetStateIsConsistent : Obligations.ResetStateIsConsistent :=
  ⟨reset_prog_wf, Nat.zero_le _, rfl, rfl, rfl⟩

/-- Settles O23: pc after the step is pc after the instruction. -/
theorem pcMovesByInstructionLength : Obligations.PcMovesByInstructionLength := by
  refine ⟨fun s t i hrun hi h => ?_, fun _ => rfl, rfl, rfl, rfl, fun prog s t h => ?_⟩
  · rw [eq_afterInstr_of_step hrun hi h, afterInstr_pc]
  · rw [(runEntry_next h).2, beginRun_pc]

/-- The end of an instruction of the stream is in the stream or at its end, and reaching it does not wrap (R27). -/
theorem toNat_end_of_instrAtPc {s : State} {i : Instr} (hwf : Memory.wf s.prog = true) (hi : InstrAtPc s i) :
    (s.pc + BitVec.ofNat 16 (encode i).length).toNat = s.pc.toNat + (encode i).length ∧
    s.pc.toNat + (encode i).length ≤ Memory.progLen s.prog := by
  cases i with
  | lda v =>
    obtain ⟨hop, hv⟩ := instrAtPc_lda.mp hi
    obtain ⟨hpc, -⟩ := toNat_succ_of_memRead hwf hop
    obtain ⟨hpc', hle⟩ := toNat_succ_of_memRead hwf hv
    have htwo : s.pc + BitVec.ofNat 16 (encode (.lda v)).length = s.pc + 1#16 + 1#16 :=
      (BitVec.add_assoc s.pc 1#16 1#16).symm
    rw [hpc] at hpc' hle
    exact ⟨htwo ▸ hpc', hle⟩
  | tax => exact toNat_succ_of_memRead hwf (instrAtPc_tax.mp hi)
  | inx => exact toNat_succ_of_memRead hwf (instrAtPc_inx.mp hi)
  | brk => exact toNat_succ_of_memRead hwf (instrAtPc_brk.mp hi)

/-- Where a step faults, pc at the raise point is in the stream or at its end, without a wrap, and the record explains
it. -/
theorem faultExplained_of_faultAt {s : State} {f : FaultRecord} {n : Nat} (hwf : Memory.wf s.prog = true)
    (hle : s.pc.toNat ≤ Memory.progLen s.prog) (h : FaultAt s f n) :
    (s.pc + BitVec.ofNat 16 n).toNat = s.pc.toNat + n ∧ n ≤ 1 ∧ s.pc.toNat + n ≤ Memory.progLen s.prog ∧
    FaultExplained (raise f (s.advancePc n)) f := by
  cases h with
  | opcodeMissing hop =>
    have hend := (memRead_eq_none_iff hwf _).mp hop
    refine ⟨by simp, by decide, hle, rfl, by simp, ?_⟩
    simpa using Nat.le_antisymm hle hend
  | operandMissing hop hv =>
    obtain ⟨hpc, hle'⟩ := toNat_succ_of_memRead hwf hop
    have hend := (memRead_eq_none_iff hwf _).mp hv
    exact ⟨hpc, Nat.le_refl 1, hle', rfl, rfl, hpc.trans (Nat.le_antisymm hle' (hpc ▸ hend))⟩
  | @unrecognized b hop hb =>
    obtain ⟨hpc, hle'⟩ := toNat_succ_of_memRead hwf hop
    exact ⟨hpc, Nat.le_refl 1, hle', b, rfl, hb, hop, hpc⟩

theorem consistent_afterInstr {s : State} {i : Instr} (hs : s.Consistent) (hrun : s.runState = .running)
    (hi : InstrAtPc s i) : (afterInstr i s).Consistent := by
  simp only [State.Consistent, hrun] at hs
  obtain ⟨hwf, -, hfault⟩ := hs
  obtain ⟨hpc, hle⟩ := toNat_end_of_instrAtPc hwf hi
  refine ⟨by simpa using hwf, by rwa [afterInstr_pc, afterInstr_prog, hpc], ?_⟩
  by_cases hbrk : i = .brk
  · subst hbrk
    exact ⟨hfault, s.pc, instrAtPc_brk.mp hi, hpc⟩
  · simpa [hbrk, hrun] using hfault

theorem consistent_raise {s : State} {f : FaultRecord} {n : Nat} (hs : s.Consistent) (h : FaultAt s f n) :
    (raise f (s.advancePc n)).Consistent := by
  obtain ⟨hwf, hle, -⟩ := hs
  obtain ⟨hpc, -, hle', hexp⟩ := faultExplained_of_faultAt hwf hle h
  exact ⟨hwf, hpc ▸ hle', f, rfl, hexp⟩

/-- Settles O36, by the three forms of a step. -/
theorem stepKeepsConsistency : Obligations.StepKeepsConsistency := by
  intro s t hs h
  cases step_eq_next_iff.mp h with
  | notRunning _ => exact hs
  | executed i hrun hi => exact consistent_afterInstr hs hrun hi
  | faulted _ hf => exact consistent_raise hs hf

/-- pc as a number, under the invariant: a step moves it by at most the two bytes of the longest instruction. -/
theorem toNat_pc_le_of_stepsTo {s t : State} (hs : s.Consistent) (h : StepsTo s t) :
    s.pc.toNat ≤ t.pc.toNat ∧ t.pc.toNat ≤ s.pc.toNat + 2 := by
  obtain ⟨hwf, hle, -⟩ := hs
  cases h with
  | notRunning _ => omega
  | executed i _ hi =>
    have hlen : (encode i).length ≤ 2 := by cases i <;> simp [encode]
    rw [afterInstr_pc, (toNat_end_of_instrAtPc hwf hi).1]
    omega
  | faulted _ hf =>
    obtain ⟨hpc, hn, -, -⟩ := faultExplained_of_faultAt hwf hle hf
    rw [raise_pc, State.advancePc_pc, hpc]
    omega

/-- Settles O24: the bound on pc is the invariant's, after the step. -/
theorem pcNeverWraps : Obligations.PcNeverWraps := by
  intro s t hs h
  obtain ⟨hlow, hhigh⟩ := toNat_pc_le_of_stepsTo hs (step_eq_next_iff.mp h)
  obtain ⟨hwf, hle, -⟩ := stepKeepsConsistency s t hs h
  exact ⟨hlow, hhigh, hle, progLen_le_of_wf hwf⟩

end Sys2Proof.Machine

/-! CLAIMS. Z, N and the reserved bits of P over steps and histories. -/

namespace Sys2Proof.Machine

/-- After an instruction the flags follow the value that it wrote, or the last one before it for Halt. -/
theorem flagsFollowLast_afterInstr {s : State} {last : Option Byte} (i : Instr) (h : FlagsFollowLast s.P last) :
    FlagsFollowLast (afterInstr i s).P ((flagValue i s).or last) := by
  rw [afterInstr_P]
  cases flagValue i s with
  | none => exact h
  | some v => exact flagsFollow_flags s.P v

/-- A step that runs no instruction keeps P. -/
theorem P_eq_of_notRunning_or_faulted {s t : State} (h : StepsTo s t)
    (hst : s.runState ≠ .running ∨ t.runState = .faulted) : t.P = s.P := by
  cases h with
  | notRunning _ => rfl
  | faulted _ _ => rfl
  | executed i hrun _ =>
    obtain hs | hf := hst
    · exact absurd hrun hs
    · by_cases hbrk : i = .brk <;> simp [hbrk, hrun] at hf

/-- Settles O46: an instruction by its value, the other steps since they keep P. -/
theorem stepKeepsFlagsOnTheLastWrittenValue : Obligations.StepKeepsFlagsOnTheLastWrittenValue := by
  intro s t last hlast h
  refine ⟨fun i hrun hi => ?_, fun hst => ?_⟩
  · rw [eq_afterInstr_of_step hrun hi h]
    exact flagsFollowLast_afterInstr i hlast
  · rwa [P_eq_of_notRunning_or_faulted (step_eq_next_iff.mp h) hst]

/-- Each form of a step extends a history by its own constructor. -/
theorem History.exists_of_step {s t : State} {last : Option Byte} (hs : History s last) (h : step s = .next t) :
    ∃ last', History t last' := by
  cases step_eq_next_iff.mp h with
  | notRunning hrun => exact ⟨_, .notRunning hs hrun h⟩
  | executed i hrun hi => exact ⟨_, .executed hs hrun hi h⟩
  | faulted hrun _ => exact ⟨_, .faulted hs hrun h rfl⟩

theorem Reachable.exists_history {s : State} (h : Reachable s) : ∃ last, History s last := by
  induction h with
  | construct => exact ⟨_, .construct⟩
  | runEntry prog _ hentry ih =>
    obtain ⟨last, hs⟩ := ih
    exact ⟨last, .runEntry prog hs hentry⟩
  | step _ hstep ih =>
    obtain ⟨last, hs⟩ := ih
    exact hs.exists_of_step hstep

theorem P_of_runEntry {prog : List Byte} {s t : State} (h : runEntry prog s = .next t) : t.P = s.P := by
  rw [(runEntry_next h).2, beginRun_P]

theorem History.flagsFollowLast {s : State} {last : Option Byte} (h : History s last) :
    FlagsFollowLast s.P last := by
  induction h with
  | construct => exact ⟨rfl, rfl⟩
  | runEntry prog _ hentry ih => rwa [P_of_runEntry hentry]
  | executed _ hrun hi hstep ih => exact (stepKeepsFlagsOnTheLastWrittenValue _ _ _ ih hstep).1 _ hrun hi
  | faulted _ _ hstep hf ih => exact (stepKeepsFlagsOnTheLastWrittenValue _ _ _ ih hstep).2 (.inr hf)
  | notRunning _ hrun hstep ih => exact (stepKeepsFlagsOnTheLastWrittenValue _ _ _ ih hstep).2 (.inl hrun)

/-- Settles O39, by induction on the way to the state and on the history. -/
theorem flagsFollowTheLastWrittenValue : Obligations.FlagsFollowTheLastWrittenValue :=
  ⟨fun _ h => h.exists_history, fun _ _ h => h.flagsFollowLast⟩

theorem reservedKept_of_stepsTo {s t : State} (h : StepsTo s t) : ReservedKept s.P t.P := by
  cases h with
  | notRunning _ => exact .refl s.P
  | faulted _ _ => exact .refl s.P
  | executed i _ _ =>
    rw [afterInstr_P]
    cases flagValue i s with
    | none => exact .refl s.P
    | some v => exact reservedKept_flags s.P v

theorem Reachable.reserved_eq_zero {s : State} (h : Reachable s) : s.P &&& reservedMask = 0x00#8 := by
  induction h with
  | construct => rfl
  | runEntry prog _ hentry ih => rwa [P_of_runEntry hentry]
  | step _ hstep ih => rwa [reservedKept_iff.mp (reservedKept_of_stepsTo (step_eq_next_iff.mp hstep))]

/-- Settles O38: the reserved bits are 0 at construction and every move keeps them. -/
theorem reservedBitsStayAsTheyWere : Obligations.ReservedBitsStayAsTheyWere :=
  ⟨fun _ _ h => reservedKept_of_stepsTo (step_eq_next_iff.mp h), fun _ h => h.reserved_eq_zero, fun _ => rfl⟩

end Sys2Proof.Machine

/-! CLAIMS. Who writes and who reads A, X and P, and that instances share no state. -/

namespace Sys2Proof.Machine

theorem memRead_lda_of_A_ne {s t : State} (h : StepsTo s t) (hA : t.A ≠ s.A) : memRead s s.pc = some 0xA9#8 := by
  cases h with
  | notRunning _ => exact absurd rfl hA
  | faulted _ _ => exact absurd rfl hA
  | executed i _ hi =>
    cases i with
    | lda v => exact (instrAtPc_lda.mp hi).1
    | _ => exact absurd rfl hA

theorem memRead_tax_or_inx_of_X_ne {s t : State} (h : StepsTo s t) (hX : t.X ≠ s.X) :
    memRead s s.pc = some 0xAA#8 ∨ memRead s s.pc = some 0xE8#8 := by
  cases h with
  | notRunning _ => exact absurd rfl hX
  | faulted _ _ => exact absurd rfl hX
  | executed i _ hi =>
    cases i with
    | tax => exact .inl (instrAtPc_tax.mp hi)
    | inx => exact .inr (instrAtPc_inx.mp hi)
    | _ => exact absurd rfl hX

/-- With a byte other than TAX's at pc, another A before the step is overwritten by LDA, and else is still there after
it with the same step. -/
theorem stepsTo_setA {s t : State} (v : Byte) (hop : memRead s s.pc ≠ some 0xAA#8) (h : StepsTo s t) :
    StepsTo (s.setA v) t ∨ (t.A = s.A ∧ StepsTo (s.setA v) (t.setA v)) := by
  cases h with
  | notRunning hrun => exact .inr ⟨rfl, .notRunning hrun⟩
  | faulted hrun hf => exact .inr ⟨rfl, .faulted hrun (hf.congr rfl rfl)⟩
  | executed i hrun hi =>
    have hexec : StepsTo (s.setA v) (afterInstr i (s.setA v)) := .executed i hrun (hi.congr rfl rfl)
    cases i with
    | lda w => exact .inl hexec
    | tax => exact absurd (instrAtPc_tax.mp hi) hop
    | inx => exact .inr ⟨rfl, hexec⟩
    | brk => exact .inr ⟨rfl, hexec⟩

/-- With a byte other than INX's at pc, another X before the step is overwritten by TAX, and else is still there after
it with the same step. -/
theorem stepsTo_setX {s t : State} (v : Byte) (hop : memRead s s.pc ≠ some 0xE8#8) (h : StepsTo s t) :
    StepsTo (s.setX v) t ∨ (t.X = s.X ∧ StepsTo (s.setX v) (t.setX v)) := by
  cases h with
  | notRunning hrun => exact .inr ⟨rfl, .notRunning hrun⟩
  | faulted hrun hf => exact .inr ⟨rfl, .faulted hrun (hf.congr rfl rfl)⟩
  | executed i hrun hi =>
    have hexec : StepsTo (s.setX v) (afterInstr i (s.setX v)) := .executed i hrun (hi.congr rfl rfl)
    cases i with
    | tax => exact .inl hexec
    | inx => exact absurd (instrAtPc_inx.mp hi) hop
    | lda w => exact .inr ⟨rfl, hexec⟩
    | brk => exact .inr ⟨rfl, hexec⟩

/-- Another P before the step changes P alone after it, and the step either keeps both or replaces both by the
flag-update logic's byte for the same value. -/
theorem exists_stepsTo_setP {s t : State} (Q : Byte) (h : StepsTo s t) :
    ∃ R, StepsTo (s.setP Q) (t.setP R) ∧
      ((t.P = s.P ∧ R = Q) ∨ ∃ v, t.P = flags s.P v ∧ R = flags Q v) := by
  cases h with
  | notRunning hrun => exact ⟨Q, .notRunning hrun, .inl ⟨rfl, rfl⟩⟩
  | faulted hrun hf => exact ⟨Q, .faulted hrun (hf.congr rfl rfl), .inl ⟨rfl, rfl⟩⟩
  | executed i hrun hi =>
    have hexec : StepsTo (s.setP Q) (afterInstr i (s.setP Q)) := .executed i hrun (hi.congr rfl rfl)
    cases i with
    | lda v => exact ⟨_, hexec, .inr ⟨v, rfl, rfl⟩⟩
    | tax => exact ⟨_, hexec, .inr ⟨s.A, rfl, rfl⟩⟩
    | inx => exact ⟨_, hexec, .inr ⟨s.X + 1#8, rfl, rfl⟩⟩
    | brk => exact ⟨_, hexec, .inl ⟨rfl, rfl⟩⟩

/-- Settles O31, by the three forms of a step. -/
theorem onlyLdaWritesAOnlyTaxReadsA : Obligations.OnlyLdaWritesAOnlyTaxReadsA := by
  unfold Obligations.OnlyLdaWritesAOnlyTaxReadsA
  simp only [step_eq_next_iff]
  exact ⟨fun _ _ => memRead_lda_of_A_ne, fun _ _ v hop h => stepsTo_setA v hop h⟩

/-- Settles O32, by the three forms of a step. -/
theorem onlyTaxAndInxWriteXOnlyInxReadsX : Obligations.OnlyTaxAndInxWriteXOnlyInxReadsX := by
  unfold Obligations.OnlyTaxAndInxWriteXOnlyInxReadsX
  simp only [step_eq_next_iff]
  exact ⟨fun _ _ => memRead_tax_or_inx_of_X_ne, fun _ _ v hop h => stepsTo_setX v hop h⟩

/-- Settles O33: the second step is the first one with another P. -/
theorem noInstructionReadsP : Obligations.NoInstructionReadsP := by
  intro s t u Q ht hu
  rw [step_eq_next_iff] at ht
  obtain ⟨R, hR, hP⟩ := exists_stepsTo_setP Q ht
  obtain rfl : t.setP R = u := Host.Outcome.next.inj (hR.step_eq.symm.trans hu)
  exact ⟨reservedKept_of_stepsTo ht, reservedKept_of_stepsTo hR, rfl, hP, rfl, rfl, rfl⟩

/-- Settles O45: a move is a change of the list at one position. -/
theorem instancesDoNotInterfere : Obligations.InstancesDoNotInterfere := fun ps _ _ _ hij =>
  ⟨List.modify_modify_ne _ _ ps hij.symm, List.modify_modify_ne _ _ ps hij.symm,
    List.getElem?_modify_ne _ ps hij, List.getElem?_modify_ne _ ps hij⟩

end Sys2Proof.Machine

/-! SUPPORT. What the stream of a program reads as, what the run entry and a run answer, and what the loop of a run keeps. -/

namespace Sys2Proof.Machine

/-! ### What the stream of a program reads as (R33) -/

theorem Memory.read_ofBytesFrom (k i : Nat) (bs : List Byte) :
    Memory.read (Memory.ofBytesFrom k bs) (k + i) = bs[i]? := by
  induction bs generalizing k i with
  | nil => rfl
  | cons b bs ih =>
    cases i with
    | zero => simp [Memory.ofBytesFrom, Memory.read]
    | succ i => simpa [Memory.ofBytesFrom, Memory.read, Nat.add_right_comm, Nat.add_assoc] using ih (k + 1) i

/-- A core whose stream is laid out from a program reads that program's bytes, and no byte beyond them. -/
theorem memRead_of_prog_eq_ofBytes {s : State} {prog : List Byte} (h : s.prog = Memory.ofBytes prog) (a : Addr) :
    memRead s a = prog[a.toNat]? := by
  have hread : Memory.read (Memory.ofBytes prog) a.toNat = prog[a.toNat]? := by
    simpa [Memory.ofBytes] using Memory.read_ofBytesFrom 0 a.toNat prog
  rw [memRead, h, Memory.progLen_ofBytes, hread]
  split
  · next hle => exact (List.getElem?_eq_none hle).symm
  · rfl

/-! ### The run entry admits by length (R34), and what a run answers (R72) -/

theorem runEntry_of_le {prog : List Byte} (s : State) (h : prog.length ≤ 65535) :
    runEntry prog s = .next (beginRun prog s) := by
  simp [runEntry, Program.wf, h]

theorem runEntry_of_lt {prog : List Byte} (s : State) (h : 65535 < prog.length) :
    runEntry prog s = .refused .programTooLong := by
  simp [runEntry, Program.wf, h]

theorem run_of_le {prog : List Byte} (s : State) (h : prog.length ≤ 65535) :
    run prog s = runLoop (prog.length + 1) (beginRun prog s) := by
  rw [run, runEntry_of_le s h]

theorem run_of_lt {prog : List Byte} (s : State) (h : 65535 < prog.length) :
    run prog s = .refused .programTooLong := by
  rw [run, runEntry_of_lt s h]

/-- If a run answers a next state, the program was admitted and the state is the loop's last one. -/
theorem run_next {prog : List Byte} {s t : State} (h : run prog s = .next t) :
    prog.length ≤ 65535 ∧ runLoop (prog.length + 1) (beginRun prog s) = .next t := by
  by_cases hlen : prog.length ≤ 65535
  · exact ⟨hlen, run_of_le s hlen ▸ h⟩
  · rw [run_of_lt s (Nat.lt_of_not_le hlen)] at h
    cases h

/-! ### The loop of a run -/

theorem runLoop_of_not_running {s : State} (n : Nat) (hrun : s.runState ≠ .running) : runLoop n s = .next s := by
  cases n with
  | zero => rfl
  | succ n =>
    cases hs : s.runState with
    | running => exact absurd hs hrun
    | _ => simp [runLoop, hs]

theorem runLoop_succ_of_stepsTo {s t : State} (n : Nat) (hrun : s.runState = .running) (h : StepsTo s t) :
    runLoop (n + 1) s = runLoop n t := by
  simp [runLoop, hrun, h.step_eq]

/-- What every step keeps, the loop keeps. -/
theorem runLoop_preserves {p : State → Prop} (hstep : ∀ {s t}, StepsTo s t → p s → p t) {n : Nat} {s t : State}
    (hs : p s) (h : runLoop n s = .next t) : p t := by
  induction n generalizing s with
  | zero => exact Host.Outcome.next.inj h ▸ hs
  | succ n ih =>
    by_cases hrun : s.runState = .running
    · obtain ⟨u, hu⟩ := exists_stepsTo s
      exact ih (hstep hu hs) (runLoop_succ_of_stepsTo n hrun hu ▸ h)
    · rw [runLoop_of_not_running _ hrun] at h
      exact Host.Outcome.next.inj h ▸ hs

end Sys2Proof.Machine

/-! CLAIMS. The stream of a run: it holds the program given, its reads fail beyond its end, nothing writes it, and the
run entry admits programs by their length. -/

namespace Sys2Proof.Machine

theorem StepsTo.prog_eq {s t : State} (h : StepsTo s t) : t.prog = s.prog := by
  cases h with
  | notRunning _ => rfl
  | executed i _ _ => exact afterInstr_prog i s
  | faulted _ _ => rfl

theorem prog_eq_of_run {prog : List Byte} {s t : State} (h : run prog s = .next t) :
    t.prog = Memory.ofBytes prog :=
  runLoop_preserves (p := (·.prog = Memory.ofBytes prog)) (fun hst hp => hst.prog_eq.trans hp)
    (beginRun_prog prog s) (run_next h).2

/-- The empty program's run is one step, the fault of its opcode fetch (R34). -/
theorem run_nil (s : State) : run [] s = .next (raise ⟨.streamBounds, 0x0000#16, none⟩ (beginRun [] s)) := by
  have hop : memRead (beginRun [] s) 0x0000#16 = none := memRead_of_prog_eq_ofBytes (beginRun_prog [] s) _
  have hstep : StepsTo (beginRun [] s) (raise ⟨.streamBounds, 0x0000#16, none⟩ ((beginRun [] s).advancePc 0)) :=
    .faulted rfl (.opcodeMissing hop)
  rw [advancePc_zero] at hstep
  rw [run_of_le s (Nat.zero_le _)]
  exact runLoop_succ_of_stepsTo 0 rfl hstep

/-- Settles O3: the run entry lays the program out from address 0. -/
theorem streamHoldsTheProgramOfTheRun : Obligations.StreamHoldsTheProgramOfTheRun := by
  intro prog s t h
  obtain ⟨-, rfl⟩ := runEntry_next h
  exact ⟨Memory.progLen_ofBytes prog, memRead_of_prog_eq_ofBytes rfl⟩

/-- Settles O4, by the two answers of the run entry and the one step of the empty program. -/
theorem programLengthLimit : Obligations.ProgramLengthLimit :=
  ⟨fun _ s h => ⟨runEntry_of_lt s h, run_of_lt s h⟩, fun _ s h => ⟨_, runEntry_of_le s h⟩,
    fun s => ⟨_, run_nil s, rfl, rfl⟩⟩

/-- Settles O5: in the canonical form no address below the end is unlisted. -/
theorem readFailsExactlyBeyondTheStream : Obligations.ReadFailsExactlyBeyondTheStream :=
  fun _ a hwf => memRead_eq_none_iff hwf a

/-- Settles O34: no step writes the stream, so the loop keeps the one that the run entry laid out. -/
theorem nothingWritesTheStream : Obligations.NothingWritesTheStream :=
  ⟨fun _ _ h => (step_eq_next_iff.mp h).prog_eq, fun _ _ _ h => memRead_of_prog_eq_ofBytes (prog_eq_of_run h)⟩

end Sys2Proof.Machine

/-! SUPPORT. Decode and encode on one instruction and on program images: the encoding of an instruction is all that
decodes to it, and reading an image takes off one instruction at a time. -/

namespace Sys2Proof

theorem decode_encode_append (i : Instr) (rest : List Byte) : decode (encode i ++ rest) = .instr i rest := by
  cases i <;> rfl

theorem eq_encode_append_of_decode {bs : List Byte} {i : Instr} {rest : List Byte}
    (h : decode bs = .instr i rest) : bs = encode i ++ rest := by
  match bs, h with
  | b :: bs, h =>
    obtain ⟨rfl, -⟩ | ⟨rfl, -⟩ | ⟨rfl, -⟩ | ⟨rfl, -⟩ | ⟨-, hop⟩ := decodeOp_cases b
    · cases bs with
      | nil => cases h
      | cons v bs => cases h; rfl
    · cases h; rfl
    · cases h; rfl
    · cases h; rfl
    · simp [decode, hop] at h

/-- Decode and encode agree: a byte sequence decodes to an instruction exactly when it begins with its encoding. -/
theorem decode_eq_instr_iff {bs : List Byte} {i : Instr} {rest : List Byte} :
    decode bs = .instr i rest ↔ bs = encode i ++ rest :=
  ⟨eq_encode_append_of_decode, fun h => h ▸ decode_encode_append i rest⟩

/-- Reading an image that begins with an instruction gives that instruction and then what the rest reads as (R58). An
implied instruction may be the last byte, which the reader treats apart. -/
theorem decodeProgram_encode_append (i : Instr) (rest : List Byte) :
    decodeProgram (encode i ++ rest) = (decodeProgram rest).map (i :: ·) := by
  cases i with
  | lda v => rfl
  | tax => cases rest <;> rfl
  | inx => cases rest <;> rfl
  | brk => cases rest <;> rfl

/-- A nonempty image that reads as a list of instructions begins with one. -/
theorem exists_decode_of_decodeProgram {b : Byte} {bs : List Byte} {is : List Instr}
    (h : decodeProgram (b :: bs) = some is) : ∃ i rest, decode (b :: bs) = .instr i rest := by
  cases bs with
  | nil =>
    cases hd : decode [b] with
    | instr i rest => exact ⟨i, rest, rfl⟩
    | _ => simp [decodeProgram, hd] at h
  | cons v bs =>
    obtain ⟨rfl, -⟩ | ⟨rfl, -⟩ | ⟨rfl, -⟩ | ⟨rfl, -⟩ | ⟨-, hop⟩ := decodeOp_cases b
    · exact ⟨.lda v, bs, rfl⟩
    · exact ⟨.tax, v :: bs, rfl⟩
    · exact ⟨.inx, v :: bs, rfl⟩
    · exact ⟨.brk, v :: bs, rfl⟩
    · simp [decodeProgram, hop] at h

/-- An image reads as `is` in one of two ways: both are empty, or the first instruction of `is` is encoded at its front
and the remaining bytes read as the others. -/
theorem decodeProgram_eq_some_cases {bs : List Byte} {is : List Instr} (h : decodeProgram bs = some is) :
    (bs = [] ∧ is = []) ∨
    ∃ i rest is', bs = encode i ++ rest ∧ decodeProgram rest = some is' ∧ is = i :: is' := by
  cases bs with
  | nil => exact .inl ⟨rfl, (Option.some.inj h).symm⟩
  | cons b bs =>
    obtain ⟨i, rest, hd⟩ := exists_decode_of_decodeProgram h
    have hbs := decode_eq_instr_iff.mp hd
    rw [hbs, decodeProgram_encode_append, Option.map_eq_some_iff] at h
    obtain ⟨is', hrest, his⟩ := h
    exact .inr ⟨i, rest, is', hbs, hrest, his.symm⟩

theorem encodeProgram_cons (i : Instr) (is : List Instr) :
    encodeProgram (i :: is) = encode i ++ encodeProgram is := rfl

/-- Program images and lists of instructions correspond (R58). -/
theorem decodeProgram_eq_some_iff {bs : List Byte} {is : List Instr} :
    decodeProgram bs = some is ↔ encodeProgram is = bs := by
  constructor
  · intro h
    induction is generalizing bs with
    | nil =>
      obtain ⟨rfl, -⟩ | ⟨_, _, _, -, -, hnil⟩ := decodeProgram_eq_some_cases h
      · rfl
      · cases hnil
    | cons i is ih =>
      obtain ⟨-, hcons⟩ | ⟨_, rest, _, rfl, hrest, hcons⟩ := decodeProgram_eq_some_cases h
      · cases hcons
      · cases hcons
        rw [encodeProgram_cons, ih hrest]
  · rintro rfl
    induction is with
    | nil => rfl
    | cons i is ih => rw [encodeProgram_cons, decodeProgram_encode_append, ih, Option.map_some]

end Sys2Proof

/-! CLAIMS. Encoding: the opcode map, decode and encode on one instruction, and program images. -/

namespace Sys2Proof

/-- Settles O9: an image reads as a list of instructions exactly when it is that list's image. -/
theorem programImageRoundTrip : Obligations.ProgramImageRoundTrip :=
  ⟨fun _ => decodeProgram_eq_some_iff.mpr rfl, fun _ _ => decodeProgram_eq_some_iff.mp⟩

/-- Settles O8, by the opcode's case and the presence of the operand. -/
theorem decodeInvertsEncode : Obligations.DecodeInvertsEncode := fun _ _ _ => decode_eq_instr_iff

/-- Settles O6: the four opcodes of the map, and every other byte. -/
theorem decoderFollowsTheOpcodeMap : Obligations.DecoderFollowsTheOpcodeMap :=
  ⟨decodeOp_lda, decodeOp_tax, decodeOp_inx, decodeOp_brk,
    fun _ hlda htax hinx hbrk => Machine.decodeOp_of_unrecognized ⟨hlda, htax, hinx, hbrk⟩⟩

/-- Settles O7: each word is the encoding of its instruction, and 0x69 is no opcode of the map. -/
theorem writtenOutWordsDecode : Obligations.WrittenOutWordsDecode :=
  ⟨decode_encode_append (.lda 0x05#8) [], decode_encode_append .tax [], decode_encode_append .inx [],
    decode_encode_append .brk [], by decide, by decide⟩

end Sys2Proof

/-! CLAIMS. Bytes after a Halt never matter: a run that halts has fetched nothing at or beyond its final pc, so a
program with the same bytes up to there takes the same steps. -/

namespace Sys2Proof.Machine

/-- The run entry of an admitted program meets the invariant (R102, R103). -/
theorem consistent_beginRun {prog : List Byte} (s : State) (h : prog.length ≤ 65535) :
    (beginRun prog s).Consistent :=
  ⟨Memory.wf_ofBytes h, Nat.zero_le _, rfl⟩

/-- From a state that meets the invariant, a run ends in one that does, and pc has not moved back (R27). -/
theorem consistent_and_pc_le_of_runLoop {n : Nat} {s t : State} (hs : s.Consistent) (h : runLoop n s = .next t) :
    t.Consistent ∧ s.pc.toNat ≤ t.pc.toNat :=
  runLoop_preserves (p := fun u => u.Consistent ∧ s.pc.toNat ≤ u.pc.toNat)
    (fun hst ⟨hu, hle⟩ =>
      ⟨stepKeepsConsistency _ _ hu hst.step_eq, hle.trans (toNat_pc_le_of_stepsTo hu hst).1⟩)
    ⟨hs, Nat.le_refl _⟩ h

/-- `SameBytesBelow e s m`: below address `e` the stream `m` reads as the stream of `s` does. -/
def SameBytesBelow (e : Nat) (s : State) (m : Memory) : Prop :=
  ∀ a : Addr, a.toNat < e → memRead (s.setProg m) a = memRead s a

theorem SameBytesBelow.congr {e : Nat} {s t : State} {m : Memory} (h : SameBytesBelow e s m)
    (hprog : t.prog = s.prog) : SameBytesBelow e t m := fun a ha => by
  rw [memRead_congr hprog, ← h a ha]
  rfl

/-- An instruction that ends below `e` stands at pc in the other stream too. -/
theorem SameBytesBelow.instrAtPc {e : Nat} {s : State} {m : Memory} {i : Instr} (hsame : SameBytesBelow e s m)
    (hwf : Memory.wf s.prog = true) (hi : InstrAtPc s i) (he : (afterInstr i s).pc.toNat ≤ e) :
    InstrAtPc (s.setProg m) i := by
  intro k hk
  obtain ⟨hend, hle⟩ := toNat_end_of_instrAtPc hwf hi
  rw [afterInstr_pc, hend] at he
  have hlen := progLen_le_of_wf hwf
  have haddr : (s.pc + BitVec.ofNat 16 k).toNat < e := by
    rw [BitVec.toNat_add, BitVec.toNat_ofNat]
    omega
  exact (hsame _ haddr).trans (hi k hk)

/-- No instruction looks at the stream beyond its own bytes. -/
theorem afterInstr_setProg (i : Instr) (s : State) (m : Memory) :
    afterInstr i (s.setProg m) = (afterInstr i s).setProg m := by
  cases i <;> rfl

theorem toNat_pc_lt_afterInstr {s : State} {i : Instr} (hwf : Memory.wf s.prog = true) (hi : InstrAtPc s i) :
    s.pc.toNat < (afterInstr i s).pc.toNat := by
  have hlen : 0 < (encode i).length := by cases i <;> simp [encode]
  rw [afterInstr_pc, (toNat_end_of_instrAtPc hwf hi).1]
  omega

/-- A run that halts takes the same steps on any stream with the same bytes below its final pc; as every step before the
halt moves pc on, as many steps as there are bytes from pc to there are enough. -/
theorem runLoop_setProg_of_halted {n n' : Nat} {s t : State} {m : Memory} (hs : s.Consistent)
    (h : runLoop n s = .next t) (hhalt : t.runState = .halted) (hsame : SameBytesBelow t.pc.toNat s m)
    (hn' : t.pc.toNat ≤ s.pc.toNat + n') : runLoop n' (s.setProg m) = .next (t.setProg m) := by
  have hstop {n : Nat} {u : State} (hu : u.runState ≠ .running) (h : runLoop n u = .next t) : u = t :=
    Host.Outcome.next.inj ((runLoop_of_not_running n hu).symm.trans h)
  induction n generalizing s n' with
  | zero =>
    obtain rfl : s = t := Host.Outcome.next.inj h
    exact runLoop_of_not_running n' (by simp [hhalt])
  | succ n ih =>
    obtain ⟨u, hu⟩ := exists_stepsTo s
    have hcons := stepKeepsConsistency _ _ hs hu.step_eq
    cases hu with
    | notRunning hrun =>
      obtain rfl := hstop hrun h
      exact runLoop_of_not_running n' hrun
    | faulted hrun hf =>
      rw [runLoop_succ_of_stepsTo n hrun (.faulted hrun hf)] at h
      obtain rfl := hstop (by simp) h
      cases hhalt
    | executed i hrun hi =>
      rw [runLoop_succ_of_stepsTo n hrun (.executed i hrun hi)] at h
      obtain ⟨hwf, -, -⟩ := hs
      have hle := (consistent_and_pc_le_of_runLoop hcons h).2
      have hlt := toNat_pc_lt_afterInstr hwf hi
      obtain ⟨k, rfl⟩ : ∃ k, n' = k + 1 := ⟨n' - 1, by omega⟩
      have hstep : StepsTo (s.setProg m) (afterInstr i (s.setProg m)) :=
        .executed i hrun (hsame.instrAtPc hwf hi hle)
      rw [runLoop_succ_of_stepsTo (s := s.setProg m) k hrun hstep, afterInstr_setProg]
      exact ih hcons h (hsame.congr (afterInstr_prog i s)) (by omega)

/-- Programs with the same first `e` bytes read alike below address `e`. -/
theorem sameBytesBelow_beginRun {e : Nat} {prog prog' : List Byte} (s : State) (h : prog'.take e = prog.take e) :
    SameBytesBelow e (beginRun prog s) (Memory.ofBytes prog') := fun a ha => by
  rw [memRead_of_prog_eq_ofBytes (State.setProg_prog ..), memRead_of_prog_eq_ofBytes (beginRun_prog ..),
    ← List.getElem?_take_of_lt ha, h, List.getElem?_take_of_lt ha]

/-- Settles O42: the second program reaches up to the final pc, so its loop has steps enough to take those of the first
run. -/
theorem bytesAfterTheHaltDoNotMatter : Obligations.BytesAfterTheHaltDoNotMatter := by
  intro prog prog' s t h hhalt hlen' htake
  obtain ⟨hlen, hloop⟩ := run_next h
  have hs := consistent_beginRun s hlen
  have hend : t.pc.toNat ≤ prog.length := by
    obtain ⟨⟨-, hle, -⟩, -⟩ := consistent_and_pc_le_of_runLoop hs hloop
    rwa [prog_eq_of_run h, Memory.progLen_ofBytes] at hle
  have hend' : t.pc.toNat ≤ prog'.length := by
    have hmin := congrArg List.length htake
    simp only [List.length_take] at hmin
    omega
  have hloop' := runLoop_setProg_of_halted (n' := prog'.length + 1) hs hloop hhalt
    (sameBytesBelow_beginRun s htake) (by rw [beginRun_pc]; omega)
  exact ⟨t.setProg (Memory.ofBytes prog'), (run_of_le s hlen').trans hloop', rfl, hhalt⟩

end Sys2Proof.Machine

/-! CLAIMS. The execution core: the ALU stub and the flag-update logic, the step of a running core, and the same step as
the sequencer's lines over the control table. -/

namespace Sys2Proof.Machine

/-! ### The ALU stub and the flag-update logic -/

/-- Settles O10: a byte is its number modulo 256. -/
theorem aluPassesAndIncrements : Obligations.AluPassesAndIncrements :=
  fun v => ⟨rfl, BitVec.toNat_add v 1#8⟩

/-- Settles O11, by the bits of the flag-update logic. -/
theorem flagLogicSetsZAndNKeepsTheRest : Obligations.FlagLogicSetsZAndNKeepsTheRest :=
  fun P v => ⟨rfl, flagsFollow_flags P v, reservedKept_flags P v⟩

/-- The next P depends on the old one in its reserved bits alone (R66). -/
theorem flags_eq_of_reservedKept {P Q : Byte} (h : ReservedKept P Q) (v : Byte) : flags Q v = flags P v := by
  refine BitVec.eq_of_getLsbD_eq fun i hi => ?_
  rw [getLsbD_flags Q v hi, getLsbD_flags P v hi]
  by_cases h1 : i = 1
  · simp only [h1, if_true]
  by_cases h7 : i = 7
  · simp only [h7, if_true]
  simp only [if_neg h1, if_neg h7, h i hi h1 h7]

/-- Settles O12: Z and N follow v, and an update before leaves the reserved bits to the next one. -/
theorem flagLogicReplacesOldFlags : Obligations.FlagLogicReplacesOldFlags := by
  intro P Q v w
  obtain ⟨hZ, hN⟩ := flagsFollow_flags P v
  obtain ⟨hZ', hN'⟩ := flagsFollow_flags Q v
  exact ⟨hZ.trans hZ'.symm, hN.trans hN'.symm, reservedKept_flags P v,
    flags_eq_of_reservedKept (reservedKept_flags P w) v⟩

/-! ### The step -/

theorem step_eq_exec {s : State} {i : Instr} (hrun : s.runState = .running) (hi : InstrAtPc s i) :
    step s = exec i s :=
  (StepsTo.executed i hrun hi).step_eq.trans (exec_eq_next i s).symm

/-- Settles O17: the fetch of the bytes at pc decodes to their instruction. -/
theorem stepRunsTheDecodedInstruction : Obligations.StepRunsTheDecodedInstruction :=
  fun _ _ hrun hi => ⟨decode_instrFetch_of_instrAtPc hi, step_eq_exec hrun hi⟩

/-- At the start of a run the program's first instruction stands at pc, whatever follows it. -/
theorem instrAtPc_beginRun (i : Instr) (rest : List Byte) (s : State) :
    InstrAtPc (beginRun (encode i ++ rest) s) i := by
  intro k hk
  have hlen : (encode i).length ≤ 2 := by cases i <;> simp [encode]
  have hpc : (0x0000#16 + BitVec.ofNat 16 k).toNat = k := by
    rw [BitVec.toNat_add, BitVec.toNat_ofNat, BitVec.toNat_ofNat]
    omega
  rw [memRead_of_prog_eq_ofBytes (beginRun_prog ..), beginRun_pc, hpc, List.getElem?_append_left hk]

/-- The bytes of a table word that the decoder reads begin with the instruction. -/
theorem exists_tableBytes_eq {nbits w : Nat} {i : Instr} (h : decodeTableWord nbits w = some i) :
    ∃ rest, tableBytes nbits w = encode i ++ rest := by
  unfold decodeTableWord at h
  split at h
  · next j rest hd =>
    obtain rfl : j = i := Option.some.inj h
    exact ⟨rest, eq_encode_append_of_decode hd⟩
  all_goals cases h

/-- Settles O18: the word's bytes are a program whose first instruction stands at pc = 0. -/
theorem fetchWordIsWhatStepRuns : Obligations.FetchWordIsWhatStepRuns := by
  intro s nbits w i h
  obtain ⟨rest, hbytes⟩ := exists_tableBytes_eq h
  have hi : InstrAtPc (s.withFetchWord nbits w) i := by
    rw [State.withFetchWord, hbytes]
    exact instrAtPc_beginRun i rest s
  exact ⟨step_eq_exec rfl hi, rfl, rfl, rfl, rfl⟩

/-- A step of a Running core goes on with an instruction, halts with BRK, or faults. -/
theorem StepsTo.running_cases {s t : State} (h : StepsTo s t) (hrun : s.runState = .running) :
    (∃ i, InstrAtPc s i ∧ t = afterInstr i s ∧ t.runState = .running) ∨
    (InstrAtPc s .brk ∧ t = afterInstr .brk s) ∨
    ∃ f n, FaultAt s f n ∧ t = raise f (s.advancePc n) := by
  cases h with
  | notRunning hne => exact absurd hrun hne
  | executed i _ hi =>
    by_cases hbrk : i = .brk
    · subst hbrk
      exact .inr (.inl ⟨hi, rfl⟩)
    · exact .inl ⟨i, hi, rfl, by simp [hbrk, hrun]⟩
  | faulted _ hf => exact .inr (.inr ⟨_, _, hf, rfl⟩)

/-- Settles O25: an instruction other than Halt continues, Halt halts, and the rest faults. -/
theorem runningStepHasThreeOutcomes : Obligations.RunningStepHasThreeOutcomes := by
  intro s hrun
  obtain ⟨t, ht⟩ := exists_stepsTo s
  refine ⟨t, ht.step_eq, ?_⟩
  obtain ⟨i, -, rfl, hrun'⟩ | ⟨-, rfl⟩ | ⟨f, n, -, rfl⟩ := ht.running_cases hrun
  · exact .inl ⟨hrun', afterInstr_fault i s⟩
  · exact .inr (.inl ⟨rfl, rfl⟩)
  · exact .inr (.inr ⟨rfl, f, rfl⟩)

/-- Settles O26, by the states of the core that take no step. -/
theorem coreThatIsNotRunningKeepsItsState : Obligations.CoreThatIsNotRunningKeepsItsState :=
  fun _ => step_of_not_running

/-! ### The step as the sequencer's lines (R68) over the control table (R62) -/

/-! The rows of the control table, as the operations of the meanings. -/

section
variable (imm8 : Byte) (s : State)

theorem drive_load : drive (controlOf .load) imm8 s = (writeA imm8 s).setRunState .running := rfl
theorem drive_transfer : drive (controlOf .transfer) imm8 s = (writeX s.A s).setRunState .running := rfl
theorem drive_increment : drive (controlOf .increment) imm8 s = (writeX (s.X + 1#8) s).setRunState .running := rfl
theorem drive_halt : drive (controlOf .halt) imm8 s = s.setRunState .halted := rfl

end

/-- Where an instruction stands at pc, the control table drives the datapath to the state after it: a row other than
Halt's leaves the core Running, as it was. -/
theorem sequencerStep_of_instrAtPc {s : State} {i : Instr} (hrun : s.runState = .running) (hi : InstrAtPc s i) :
    sequencerStep s = afterInstr i s := by
  cases i with
  | lda v =>
    obtain ⟨hop, hv⟩ := instrAtPc_lda.mp hi
    have hv' : memRead (s.setPc (s.pc + 1#16)) (s.pc + 1#16) = some v := hv
    have hseq : sequencerStep s = drive (controlOf .load) v ((s.advancePc 1).advancePc 1) := by
      simp [sequencerStep, hop, hv', controlOf, State.advancePc]
    rw [hseq, drive_load]
    exact State.ext rfl rfl rfl (BitVec.add_assoc s.pc 1#16 1#16) hrun.symm rfl rfl
  | tax =>
    have hseq : sequencerStep s = drive (controlOf .transfer) 0x00#8 (s.advancePc 1) := by
      simp [sequencerStep, instrAtPc_tax.mp hi, controlOf, State.advancePc]
    rw [hseq, drive_transfer]
    exact State.ext rfl rfl rfl rfl hrun.symm rfl rfl
  | inx =>
    have hseq : sequencerStep s = drive (controlOf .increment) 0x00#8 (s.advancePc 1) := by
      simp [sequencerStep, instrAtPc_inx.mp hi, controlOf, State.advancePc]
    rw [hseq, drive_increment]
    exact State.ext rfl rfl rfl rfl hrun.symm rfl rfl
  | brk =>
    have hseq : sequencerStep s = drive (controlOf .halt) 0x00#8 (s.advancePc 1) := by
      simp [sequencerStep, instrAtPc_brk.mp hi, controlOf, State.advancePc]
    rw [hseq, drive_halt]
    rfl

/-- The sequencer raises at the same fetch or decode, with pc moved past the bytes fetched before it. -/
theorem sequencerStep_of_faultAt {s : State} {f : FaultRecord} {n : Nat} (h : FaultAt s f n) :
    sequencerStep s = raise f (s.advancePc n) := by
  cases h with
  | opcodeMissing hop => simp [sequencerStep, hop, raiseStreamBounds_eq, advancePc_zero]
  | operandMissing hop hv =>
    have hv' : memRead (s.setPc (s.pc + 1#16)) (s.pc + 1#16) = none := hv
    simp [sequencerStep, hop, hv', controlOf, raiseStreamBounds_eq, State.advancePc]
  | unrecognized hop hb =>
    simp [sequencerStep, hop, decodeOp_of_unrecognized hb, raiseUnrecognizedOpcode_eq, State.advancePc]

/-- Settles O30: both accounts run the instruction at pc or raise the same fault. -/
theorem datapathRefinesTheStep : Obligations.DatapathRefinesTheStep := by
  intro s hrun
  obtain ⟨i, hi⟩ | ⟨f, n, hf⟩ := instrAtPc_or_faultAt s
  · rw [sequencerStep_of_instrAtPc hrun hi]
    exact (StepsTo.executed i hrun hi).step_eq
  · rw [sequencerStep_of_faultAt hf]
    exact (StepsTo.faulted hrun hf).step_eq

end Sys2Proof.Machine

/-! CLAIMS. Whole runs: a step that goes on raises pc, so a run ends within its bound; the last step decides the
outcome; and what a run and an observation read. -/

namespace Sys2Proof.Machine

/-! ### A run ends -/

/-- Settles O37: an admitted program's run entry meets the invariant. -/
theorem runEntryGivesConsistency : Obligations.RunEntryGivesConsistency := by
  intro prog s t h
  obtain ⟨hlen, rfl⟩ := runEntry_next h
  exact consistent_beginRun s hlen

/-- Settles O47: the step is an instruction, which has at least one byte. -/
theorem continuingStepRaisesPc : Obligations.ContinuingStepRaisesPc := by
  intro s t hs hrun h hrun'
  have hst := step_eq_next_iff.mp h
  obtain ⟨-, hle, -⟩ := stepKeepsConsistency s t hs h
  refine ⟨?_, hle, congrArg Memory.progLen hst.prog_eq⟩
  obtain ⟨i, hi, rfl, -⟩ | ⟨-, rfl⟩ | ⟨f, n, -, rfl⟩ := hst.running_cases hrun
  · obtain ⟨hwf, -, -⟩ := hs
    exact toNat_pc_lt_afterInstr hwf hi
  · cases hrun'
  · cases hrun'

/-- From a state that meets the invariant, more steps than there are bytes from pc on end the run (R74). -/
theorem exists_runLoop_ended {n : Nat} {s : State} (hs : s.Consistent)
    (hn : Memory.progLen s.prog < s.pc.toNat + n) : ∃ t, runLoop n s = .next t ∧ t.runState ≠ .running := by
  induction n generalizing s with
  | zero =>
    obtain ⟨-, hle, -⟩ := hs
    omega
  | succ n ih =>
    by_cases hrun : s.runState = .running
    · obtain ⟨u, hu⟩ := exists_stepsTo s
      rw [runLoop_succ_of_stepsTo n hrun hu]
      by_cases hrun' : u.runState = .running
      · obtain ⟨hlt, -, hlen⟩ := continuingStepRaisesPc s u hs hrun hu.step_eq hrun'
        exact ih (stepKeepsConsistency s u hs hu.step_eq) (by omega)
      · exact ⟨u, runLoop_of_not_running n hrun', hrun'⟩
    · exact ⟨s, runLoop_of_not_running _ hrun, hrun⟩

/-- Once the loop has ended, a larger bound changes nothing. -/
theorem runLoop_add_of_ended {m : Nat} {s t : State} (n : Nat) (h : runLoop m s = .next t)
    (ht : t.runState ≠ .running) : runLoop (m + n) s = .next t := by
  induction m generalizing s with
  | zero =>
    obtain rfl : s = t := Host.Outcome.next.inj h
    exact runLoop_of_not_running _ ht
  | succ m ih =>
    by_cases hrun : s.runState = .running
    · obtain ⟨u, hu⟩ := exists_stepsTo s
      rw [Nat.succ_add, runLoop_succ_of_stepsTo _ hrun hu]
      exact ih (runLoop_succ_of_stepsTo m hrun hu ▸ h)
    · rw [runLoop_of_not_running _ hrun] at h ⊢
      exact h

/-- A run of an admitted program ends. -/
theorem exists_run_ended {prog : List Byte} (s : State) (h : prog.length ≤ 65535) :
    ∃ t, run prog s = .next t ∧ t.runState ≠ .running := by
  rw [run_of_le s h]
  exact exists_runLoop_ended (consistent_beginRun s h) (by simp)

/-- Settles O40: every step that goes on raises pc, which stays at most PROG_LEN. -/
theorem everyRunEndsWithinItsBound : Obligations.EveryRunEndsWithinItsBound := by
  intro prog s h
  obtain ⟨t, hrun, ht⟩ := exists_run_ended s h
  exact ⟨t, hrun, ht, fun n => runLoop_add_of_ended n (run_next hrun).2 ht⟩

/-! ### How a run ends -/

theorem lastOutcome_of_halted {s : State} (h : s.runState = .halted) : s.lastOutcome = some .ok := by
  simp [State.lastOutcome, h]

theorem lastOutcome_of_faulted {s : State} {f : FaultRecord} (h : s.runState = .faulted) (hf : s.fault = some f) :
    s.lastOutcome = some (.err f) := by
  simp [State.lastOutcome, h, hf]

/-- A loop that starts Running and ends otherwise has a last step. -/
theorem exists_last_step {n : Nat} {s t : State} (hrun : s.runState = .running) (h : runLoop n s = .next t)
    (ht : t.runState ≠ .running) : ∃ k u, runLoop k s = .next u ∧ u.runState = .running ∧ StepsTo u t := by
  induction n generalizing s with
  | zero =>
    obtain rfl : s = t := Host.Outcome.next.inj h
    exact absurd hrun ht
  | succ n ih =>
    obtain ⟨u, hu⟩ := exists_stepsTo s
    rw [runLoop_succ_of_stepsTo n hrun hu] at h
    by_cases hrun' : u.runState = .running
    · obtain ⟨k, v, hk, hv, hvt⟩ := ih hrun' h
      exact ⟨k + 1, v, (runLoop_succ_of_stepsTo k hrun hu).trans hk, hv, hvt⟩
    · rw [runLoop_of_not_running n hrun'] at h
      obtain rfl : u = t := Host.Outcome.next.inj h
      exact ⟨0, s, rfl, hrun, hu⟩

/-- No byte at pc that makes the step fault is Halt's. -/
theorem FaultAt.memRead_ne_brk {s : State} {f : FaultRecord} {n : Nat} (h : FaultAt s f n) :
    memRead s s.pc ≠ some 0x00#8 := by
  cases h with
  | opcodeMissing hop => simp [hop]
  | operandMissing hop _ => simp [hop]
  | unrecognized hop hb =>
    obtain ⟨-, -, -, hbrk⟩ := hb
    simp [hop, hbrk]

/-- A step that ends the run gives Ok exactly where it decodes Halt's opcode, and then pc is just past it (R73). -/
theorem lastOutcome_eq_ok_iff_of_last_step {s t : State} (h : StepsTo s t) (hrun : s.runState = .running)
    (ht : t.runState ≠ .running) :
    (t.lastOutcome = some .ok ↔ memRead s s.pc = some 0x00#8) ∧
    (t.lastOutcome = some .ok → t.pc = s.pc + 1#16) := by
  obtain ⟨_, -, -, hrun'⟩ | ⟨hi, rfl⟩ | ⟨f, n, hf, rfl⟩ := h.running_cases hrun
  · exact absurd hrun' ht
  · exact ⟨iff_of_true rfl (instrAtPc_brk.mp hi), fun _ => rfl⟩
  · have herr : (raise f (s.advancePc n)).lastOutcome ≠ some .ok := by
      simp [lastOutcome_of_faulted (raise_runState ..) (raise_fault ..)]
    exact ⟨iff_of_false herr hf.memRead_ne_brk, fun hok => absurd hok herr⟩

/-- What the invariant says of a core whose run has ended: Halt's opcode stands in the program just before pc, or the
record explains the fault. -/
theorem State.Consistent.ended_cases {t : State} {prog : List Byte} (hc : t.Consistent)
    (hprog : t.prog = Memory.ofBytes prog) (hend : t.runState = .halted ∨ t.runState = .faulted) :
    (t.lastOutcome = some .ok ∧ t.runState = .halted ∧
      ∃ p, p < prog.length ∧ prog[p]? = some 0x00#8 ∧ t.pc.toNat = p + 1) ∨
    (∃ f, t.lastOutcome = some (.err f) ∧ t.runState = .faulted ∧ t.fault = some f ∧ FaultExplained t f) := by
  obtain ⟨-, -, hstate⟩ := hc
  obtain ht | ht := hend
  · simp only [ht] at hstate
    obtain ⟨-, p, hp, hpc⟩ := hstate
    rw [memRead_of_prog_eq_ofBytes hprog] at hp
    obtain ⟨hlt, -⟩ := List.getElem?_eq_some_iff.mp hp
    exact .inl ⟨lastOutcome_of_halted ht, ht, p.toNat, hlt, hp, hpc⟩
  · simp only [ht] at hstate
    obtain ⟨f, hf, hexp⟩ := hstate
    exact .inr ⟨f, lastOutcome_of_faulted ht hf, ht, hf, hexp⟩

/-- Settles O41: the last step halts or faults, and the invariant says where pc then stands. -/
theorem runOutcomeIsOkExactlyAtHalt : Obligations.RunOutcomeIsOkExactlyAtHalt := by
  intro prog s t h
  obtain ⟨hlen, hloop⟩ := run_next h
  obtain ⟨t', ht', hne⟩ := exists_run_ended s hlen
  obtain rfl : t' = t := Host.Outcome.next.inj (ht'.symm.trans h)
  obtain ⟨k, u, hk, hrun, hut⟩ := exists_last_step (beginRun_runState prog s) hloop hne
  obtain ⟨hok, hpc⟩ := lastOutcome_eq_ok_iff_of_last_step hut hrun hne
  have hend : t'.runState = .halted ∨ t'.runState = .faulted := by
    obtain ⟨_, -, -, hrun'⟩ | ⟨-, rfl⟩ | ⟨_, _, -, rfl⟩ := hut.running_cases hrun
    · exact absurd hrun' hne
    · exact .inl rfl
    · exact .inr rfl
  exact ⟨⟨k, u, hk, hrun, hut.step_eq, hok, hpc⟩,
    (consistent_and_pc_le_of_runLoop (consistent_beginRun s hlen) hloop).1.ended_cases (prog_eq_of_run h) hend⟩

/-! ### What a run and an observation read -/

/-- The run entry leaves nothing of the state before it but A, X and P (R72). -/
theorem beginRun_congr {s s' : State} (prog : List Byte) (hA : s'.A = s.A) (hX : s'.X = s.X) (hP : s'.P = s.P) :
    beginRun prog s' = beginRun prog s :=
  State.ext hA hX hP rfl rfl rfl rfl

/-- Settles O43: a refused program's run reads no state, and any other starts from the same state. -/
theorem runDependsOnlyOnProgramAXP : Obligations.RunDependsOnlyOnProgramAXP := by
  intro prog s s' hA hX hP
  by_cases hlen : prog.length ≤ 65535
  · rw [run_of_le s' hlen, run_of_le s hlen, beginRun_congr prog hA hX hP]
  · rw [run_of_lt s' (Nat.lt_of_not_le hlen), run_of_lt s (Nat.lt_of_not_le hlen)]

/-- Settles O44: the outcome is read off run_state and the fault record. -/
theorem observationReadsTheState : Obligations.ObservationReadsTheState := by
  refine ⟨fun _ => ⟨rfl, rfl, rfl, rfl, rfl, rfl⟩, rfl, fun _ => lastOutcome_of_halted,
    fun _ _ => lastOutcome_of_faulted, fun prog s t h => ?_⟩
  obtain ⟨-, rfl⟩ := runEntry_next h
  rfl

end Sys2Proof.Machine

/-! CLAIMS. Load and transfer: LDA #imm and TAX complete in every state, and what each does as one step of a running
core, at the end of the stream too. -/

namespace Sys2Proof.Machine

/-! ### The meanings, from any state -/

/-- Settles O13: nothing of the state but A, P and pc is written. -/
theorem ldaCompletes : Obligations.LdaCompletes := fun v s =>
  ⟨afterInstr (.lda v) s, exec_eq_next _ s, rfl, flagsFollow_flags s.P v, reservedKept_flags s.P v,
    rfl, rfl, rfl, rfl, memRead_congr rfl⟩

/-- Settles O14: nothing of the state but X, P and pc is written. -/
theorem taxCompletes : Obligations.TaxCompletes := fun s =>
  ⟨afterInstr .tax s, exec_eq_next _ s, rfl, flagsFollow_flags s.P s.A, reservedKept_flags s.P s.A,
    rfl, rfl, rfl, rfl, memRead_congr rfl⟩

/-! ### The end of the stream -/

/-- The bounds check of the opcode fetch comes first, whatever the instruction (R90). -/
theorem opcodeFetchIsBounded_of_running {s : State} (hrun : s.runState = .running) : OpcodeFetchIsBounded s :=
  fun hop => ⟨_, (StepsTo.faulted hrun (.opcodeMissing hop)).step_eq, rfl, rfl, rfl, rfl, rfl, rfl⟩

/-- Where the stream ends with an instruction other than Halt, it is the step after it that faults, at the address past
the instruction. -/
theorem exists_faulted_step_afterInstr {s : State} {i : Instr} (hrun : s.runState = .running) (hi : i ≠ .brk)
    (hend : memRead s (afterInstr i s).pc = none) :
    ∃ u, step (afterInstr i s) = .next u ∧ u.runState = .faulted ∧
      u.fault = some { kind := .streamBounds, addr := (afterInstr i s).pc, byte := none } := by
  have hrun' : (afterInstr i s).runState = .running := by rw [afterInstr_runState, if_neg hi, hrun]
  have hop : memRead (afterInstr i s) (afterInstr i s).pc = none := by
    rw [memRead_congr (afterInstr_prog i s), hend]
  obtain ⟨u, hu, hfaulted, hfault, -⟩ := opcodeFetchIsBounded_of_running hrun' hop
  exact ⟨u, hu, hfaulted, hfault⟩

/-! ### The steps -/

/-- Settles O19: with its operand in the stream LDA stands at pc, and without it the operand fetch faults. -/
theorem ldaStep : Obligations.LdaStep := by
  refine fun s hrun => ⟨opcodeFetchIsBounded_of_running hrun, fun hop v hv => ?_, fun hop hv => ?_⟩
  · have hstep : StepsTo s (afterInstr (.lda v) s) := .executed _ hrun (instrAtPc_lda.mpr ⟨hop, hv⟩)
    exact ⟨_, hstep.step_eq, rfl, flagsFollow_flags s.P v, reservedKept_flags s.P v, rfl, rfl, hrun, rfl, rfl⟩
  · exact ⟨_, (StepsTo.faulted hrun (.operandMissing hop hv)).step_eq, rfl, rfl, rfl, rfl, rfl, rfl, rfl⟩

/-- Settles O20: TAX stands at pc, and it needs no byte of the stream but its opcode. -/
theorem taxStep : Obligations.TaxStep := by
  refine fun s hrun => ⟨opcodeFetchIsBounded_of_running hrun, fun hop => ?_⟩
  have hstep : StepsTo s (afterInstr .tax s) := .executed _ hrun (instrAtPc_tax.mpr hop)
  exact ⟨_, hstep.step_eq, rfl, flagsFollow_flags s.P s.A, reservedKept_flags s.P s.A, rfl, rfl, hrun, rfl, rfl,
    exists_faulted_step_afterInstr (i := .tax) hrun nofun⟩

end Sys2Proof.Machine

/-! CLAIMS. Increment: INX completes in every state, and what it does as one step of a running core, at the wrap from
0xFF and at the end of the stream too. -/

namespace Sys2Proof.Machine

/-! ### The increment and its flags -/

/-- Below the wrap the increment adds one to the number (R82). -/
theorem toNat_alu_inc_of_ne {v : Byte} (hv : v ≠ 0xFF#8) : (alu .inc v).toNat = v.toNat + 1 := by
  have hlt : v.toNat + 1 < 256 := by bv_omega
  rw [(aluPassesAndIncrements v).2, Nat.mod_eq_of_lt hlt]

/-- Flags that follow zero have Z set and N clear (R65). -/
theorem FlagsFollow.of_zero {P : Byte} (h : FlagsFollow P 0x00#8) : zFlag P = true ∧ nFlag P = false := h

/-! ### The meaning, from any state -/

/-- Settles O15: nothing of the state but X, P and pc is written, and X by the ALU's increment. -/
theorem inxCompletes : Obligations.InxCompletes := fun s =>
  ⟨afterInstr .inx s, exec_eq_next _ s, (aluPassesAndIncrements s.X).2, flagsFollow_flags s.P (s.X + 1#8),
    reservedKept_flags s.P (s.X + 1#8), rfl, rfl, rfl, rfl, memRead_congr rfl⟩

/-! ### The step -/

/-- Settles O21: INX stands at pc, the wrap is one more value of the increment, and no byte of the stream but the opcode
is needed. -/
theorem inxStep : Obligations.InxStep := by
  refine fun s hrun => ⟨opcodeFetchIsBounded_of_running hrun, fun hop => ?_⟩
  have hstep : StepsTo s (afterInstr .inx s) := .executed _ hrun (instrAtPc_inx.mpr hop)
  have hflags : FlagsFollow (afterInstr .inx s).P (s.X + 1#8) := flagsFollow_flags s.P (s.X + 1#8)
  refine ⟨_, hstep.step_eq, fun hX => ?wrap, toNat_alu_inc_of_ne, hflags, reservedKept_flags s.P (s.X + 1#8),
    rfl, rfl, hrun, rfl, rfl, exists_faulted_step_afterInstr (i := .inx) hrun nofun⟩
  case wrap =>
    have hzero : s.X + 1#8 = 0x00#8 := by rw [hX]; rfl
    rw [hzero] at hflags
    exact ⟨hzero, hflags.of_zero⟩

end Sys2Proof.Machine

/-! CLAIMS. Halt: BRK completes in every state, and what it does as one step of a running core, after which the loop
takes no further step. -/

namespace Sys2Proof.Machine

/-! ### The meaning, from any state -/

/-- Settles O16: nothing of the state but pc and run_state is written. -/
theorem brkCompletes : Obligations.BrkCompletes := fun s =>
  ⟨afterInstr .brk s, exec_eq_next _ s, rfl, rfl, rfl, rfl, rfl, rfl, memRead_congr rfl⟩

/-! ### The step -/

/-- Settles O22: BRK stands at pc whatever follows its opcode, and a core that it halted is no longer Running. -/
theorem brkStep : Obligations.BrkStep := by
  refine fun s hrun => ⟨opcodeFetchIsBounded_of_running hrun, fun hop => ?_⟩
  have hstep : StepsTo s (afterInstr .brk s) := .executed _ hrun (instrAtPc_brk.mpr hop)
  have hhalted : (afterInstr .brk s).runState ≠ .running := nofun
  exact ⟨_, hstep.step_eq, rfl, rfl, rfl, rfl, rfl, rfl, rfl, fun n => runLoop_of_not_running n hhalted⟩

end Sys2Proof.Machine

/-! CLAIMS. The two faults: an unrecognized byte ends the run, the causes of a fault in the order in which a step checks
them, and what a faulting step leaves. -/

namespace Sys2Proof.Machine

/-! ### How a step ends, by what stands at pc -/

/-- Where a cause of a fault stands at pc of a Running core, the step ends Faulted with the record of that cause. -/
theorem faulted_of_faultAt {s t : State} {f : FaultRecord} {n : Nat} (hrun : s.runState = .running)
    (hf : FaultAt s f n) (h : step s = .next t) : t.runState = .faulted ∧ t.fault = some f := by
  obtain rfl : t = raise f (s.advancePc n) := Host.Outcome.next.inj (h.symm.trans (StepsTo.faulted hrun hf).step_eq)
  exact ⟨rfl, rfl⟩

/-- Where an instruction stands at pc of a Running core, the step goes on, or halts for BRK, and writes no record. -/
theorem runState_and_fault_of_instrAtPc {s t : State} {i : Instr} (hrun : s.runState = .running)
    (hi : InstrAtPc s i) (h : step s = .next t) :
    t.runState = (if i = .brk then .halted else .running) ∧ t.fault = s.fault := by
  rw [eq_afterInstr_of_step hrun hi h]
  exact ⟨hrun ▸ afterInstr_runState i s, afterInstr_fault i s⟩

/-- A step of a Running core that ends Faulted is one that raised a fault. -/
theorem StepsTo.exists_faultAt_of_faulted {s t : State} (h : StepsTo s t) (hrun : s.runState = .running)
    (ht : t.runState = .faulted) : ∃ f n, FaultAt s f n ∧ t = raise f (s.advancePc n) := by
  obtain ⟨i, -, -, hrun'⟩ | ⟨-, rfl⟩ | hfault := h.running_cases hrun
  · cases hrun'.symm.trans ht
  · cases ht
  · exact hfault

/-! ### The claims -/

/-- Settles O27: the byte at pc is the cause of the fault, whatever follows it. -/
theorem unrecognizedOpcodeEndsTheRun : Obligations.UnrecognizedOpcodeEndsTheRun :=
  fun _ _ hrun hop hb =>
    ⟨_, (StepsTo.faulted hrun (.unrecognized hop hb)).step_eq, rfl, rfl, rfl, rfl, rfl, rfl⟩

/-- Settles O28: the fetched bytes are one of the causes of a fault, or they are an instruction, and either decides how
the step ends. -/
theorem faultCausesInCheckingOrder : Obligations.FaultCausesInCheckingOrder := by
  refine ⟨rfl, rfl, fun s t hrun h => ?_⟩
  split
  · next hop => exact faulted_of_faultAt hrun (.opcodeMissing hop) h
  · next b hop =>
    refine ⟨fun hb => ?unrecognized, ?operandMissing, ?lda, ?taxOrInx, ?brk⟩
    case unrecognized => exact faulted_of_faultAt hrun (.unrecognized hop hb) h
    case operandMissing =>
      rintro rfl hv
      exact faulted_of_faultAt hrun (.operandMissing hop hv) h
    case lda =>
      rintro rfl hv
      obtain ⟨v, hv⟩ := Option.ne_none_iff_exists'.mp hv
      exact runState_and_fault_of_instrAtPc hrun (instrAtPc_lda.mpr ⟨hop, hv⟩) h
    case taxOrInx =>
      rintro (rfl | rfl)
      · exact runState_and_fault_of_instrAtPc hrun (instrAtPc_tax.mpr hop) h
      · exact runState_and_fault_of_instrAtPc hrun (instrAtPc_inx.mpr hop) h
    case brk =>
      rintro rfl
      exact runState_and_fault_of_instrAtPc hrun (instrAtPc_brk.mpr hop) h

/-- Settles O29: raising a fault writes the record and run_state alone, and the three causes give the record and the
bytes by which pc has moved. -/
theorem faultsArePrecise : Obligations.FaultsArePrecise := by
  intro s t hrun h ht
  obtain ⟨f, n, hf, rfl⟩ := (step_eq_next_iff.mp h).exists_faultAt_of_faulted hrun ht
  refine ⟨rfl, rfl, rfl, rfl, f, rfl, ?_⟩
  cases hf with
  | opcodeMissing hop => exact .inl ⟨rfl, rfl, rfl, hop, by rw [raise_pc, advancePc_zero]⟩
  | unrecognized hop _ => exact .inr (.inl ⟨rfl, rfl, hop.symm, nofun, rfl⟩)
  | operandMissing hop hv => exact .inr (.inr ⟨rfl, rfl, rfl, hop, hv, rfl⟩)

end Sys2Proof.Machine

/-! CLAIMS. Reset: what the run entry of an admitted program resets, and what it keeps. -/

namespace Sys2Proof.Machine

/-- Settles O2: an admitted program's run entry answers `beginRun`, whose fields are the three reset values, the
program's stream, and A, X and P of the state before it. -/
theorem runEntryResetsOnlyPcRunStateAndFault : Obligations.RunEntryResetsOnlyPcRunStateAndFault :=
  fun prog s h => ⟨beginRun prog s, runEntry_of_le s h, beginRun_pc prog s, beginRun_runState prog s,
    beginRun_fault prog s, beginRun_A prog s, beginRun_X prog s, beginRun_P prog s⟩

end Sys2Proof.Machine
